-- ==== Sys2Proof/Word.lean ====
section
/-! DEFINITION. The word types of the CHIP-8 core: 8-bit data, 16-bit addresses and instruction words, the
4-bit register index, and the pixel grid (spec 00_scope.md R8, R9). -/

namespace Sys2Proof

/-- A register, timer or memory byte: 8 bits, unsigned (R8, R12). -/
abbrev Byte := BitVec 8

/-- An instruction word, the program counter, `I`, or a stack entry: 16 bits (R8, R9). -/
abbrev Word := BitVec 16

/-- The 12-bit address operand `nnn` (R91, R92). -/
abbrev Addr := BitVec 12

/-- A general register's index, 0..15: a 4-bit field, so valid by construction (R21). -/
abbrev Reg := Fin 16

/-- `VF`, the flag register `V[15]` (R14, R22). -/
abbrev VF : Reg := 15

/-- The framebuffer, 32 rows of 64 one-bit pixels: `fb[y][x]` (R33). -/
abbrev Framebuffer := Vector (Vector Bool 64) 32

end Sys2Proof
end

