-- ==== Sys2Proof/Syntax.lean ====
section
/-! DEFINITION. The 34 instructions of the opcode map (spec 30_encoding.md R94, spec/opcode_table.json), one
constructor a row, in the table's order. An operand has exactly the values its field can hold (R21, R91,
R92): a register index 0..15, a row count 0..15, an 8-bit immediate, a 12-bit address. -/

namespace Sys2Proof

/-- One CHIP-8 instruction. -/
inductive Instr where
  /-- `00E0` CLS: clear the screen (R221). -/
  | cls
  /-- `00EE` RET: return from subroutine (R151). -/
  | ret
  /-- `1NNN` JP nnn (R152). -/
  | jp (nnn : Addr)
  /-- `2NNN` CALL nnn (R153). -/
  | call (nnn : Addr)
  /-- `3XKK` SE Vx, kk: skip if equal (R155). -/
  | seImm (x : Reg) (kk : Byte)
  /-- `4XKK` SNE Vx, kk: skip if not equal (R156). -/
  | sneImm (x : Reg) (kk : Byte)
  /-- `5XY0` SE Vx, Vy: skip if equal (R157). -/
  | seReg (x y : Reg)
  /-- `6XKK` LD Vx, kk (R171). -/
  | ldImm (x : Reg) (kk : Byte)
  /-- `7XKK` ADD Vx, kk, no flag (R172). -/
  | addImm (x : Reg) (kk : Byte)
  /-- `8XY0` LD Vx, Vy (R173). -/
  | ldReg (x y : Reg)
  /-- `8XY1` OR Vx, Vy (R174). -/
  | orReg (x y : Reg)
  /-- `8XY2` AND Vx, Vy (R175). -/
  | andReg (x y : Reg)
  /-- `8XY3` XOR Vx, Vy (R176). -/
  | xorReg (x y : Reg)
  /-- `8XY4` ADD Vx, Vy with carry (R178). -/
  | addReg (x y : Reg)
  /-- `8XY5` SUB Vx, Vy (R179). -/
  | subReg (x y : Reg)
  /-- `8XY6` SHR Vx, with Vy read only under `shift_source = vy` (R180). -/
  | shr (x y : Reg)
  /-- `8XY7` SUBN Vx, Vy: `Vy - Vx` into `Vx` (R181). -/
  | subnReg (x y : Reg)
  /-- `8XYE` SHL Vx, with Vy read only under `shift_source = vy` (R182). -/
  | shl (x y : Reg)
  /-- `9XY0` SNE Vx, Vy: skip if not equal (R158). -/
  | sneReg (x y : Reg)
  /-- `ANNN` LD I, nnn (R201). -/
  | ldI (nnn : Addr)
  /-- `BNNN` JP V0, nnn (R160). -/
  | jpV0 (nnn : Addr)
  /-- `CXKK` RND Vx, kk (R183). -/
  | rnd (x : Reg) (kk : Byte)
  /-- `DXYN` DRW Vx, Vy, n (R223). -/
  | drw (x y : Reg) (n : Fin 16)
  /-- `EX9E` SKP Vx: skip if the key is pressed (R241). -/
  | skp (x : Reg)
  /-- `EXA1` SKNP Vx: skip if the key is not pressed (R242). -/
  | sknp (x : Reg)
  /-- `FX07` LD Vx, DT (R243). -/
  | ldVDt (x : Reg)
  /-- `FX0A` LD Vx, K: wait for a key (R244). -/
  | ldVK (x : Reg)
  /-- `FX15` LD DT, Vx (R245). -/
  | ldDtV (x : Reg)
  /-- `FX18` LD ST, Vx (R246). -/
  | ldStV (x : Reg)
  /-- `FX1E` ADD I, Vx (R202). -/
  | addI (x : Reg)
  /-- `FX29` LD F, Vx: the glyph's address (R203). -/
  | ldF (x : Reg)
  /-- `FX33` LD B, Vx: three decimal digits (R204). -/
  | ldB (x : Reg)
  /-- `FX55` LD [I], Vx: register dump (R205). -/
  | ldMemV (x : Reg)
  /-- `FX65` LD Vx, [I]: register load (R206). -/
  | ldVMem (x : Reg)
  deriving DecidableEq, Repr

end Sys2Proof
end

