-- ==== Sys2Proof/WellFormed.lean ====
section
/-! DEFINITION. Well-formed operands (spec 30_encoding.md R102: "The operand must fit: registers 0..15, n
0..15, kk 0..255, nnn 0..0xFFF"). An operand as an assembler meets it is a plain number; `Operand.fits` is
the check, one clause for each of the four kinds. An `Instr` carries operands of exactly those ranges in
its types, so every `Instr` is well formed (Sys2Proof/Laws/PerInstr.lean). -/

namespace Sys2Proof

/-- An operand as a plain number, before it is placed in a field (R102). -/
inductive Operand where
  /-- A register number, `V0`..`VF`. -/
  | reg (r : Nat)
  /-- The row count `n` of `DXYN`. -/
  | rows (n : Nat)
  /-- The 8-bit immediate `kk`. -/
  | imm (kk : Nat)
  /-- The 12-bit address `nnn`. -/
  | addr (nnn : Nat)
  deriving DecidableEq, Repr

/-- Whether an operand fits its field (R102). -/
def Operand.fits : Operand → Bool
  | .reg r => r < 16
  | .rows n => n < 16
  | .imm kk => kk < 256
  | .addr nnn => nnn < 0x1000

/-- The operands of an instruction, in assembler order (R94, R101). -/
def Instr.operands : Instr → List Operand
  | .cls => []
  | .ret => []
  | .jp nnn => [.addr nnn.toNat]
  | .call nnn => [.addr nnn.toNat]
  | .seImm x kk => [.reg x, .imm kk.toNat]
  | .sneImm x kk => [.reg x, .imm kk.toNat]
  | .seReg x y => [.reg x, .reg y]
  | .ldImm x kk => [.reg x, .imm kk.toNat]
  | .addImm x kk => [.reg x, .imm kk.toNat]
  | .ldReg x y => [.reg x, .reg y]
  | .orReg x y => [.reg x, .reg y]
  | .andReg x y => [.reg x, .reg y]
  | .xorReg x y => [.reg x, .reg y]
  | .addReg x y => [.reg x, .reg y]
  | .subReg x y => [.reg x, .reg y]
  | .shr x y => [.reg x, .reg y]
  | .subnReg x y => [.reg x, .reg y]
  | .shl x y => [.reg x, .reg y]
  | .sneReg x y => [.reg x, .reg y]
  | .ldI nnn => [.addr nnn.toNat]
  | .jpV0 nnn => [.addr nnn.toNat]
  | .rnd x kk => [.reg x, .imm kk.toNat]
  | .drw x y n => [.reg x, .reg y, .rows n]
  | .skp x => [.reg x]
  | .sknp x => [.reg x]
  | .ldVDt x => [.reg x]
  | .ldVK x => [.reg x]
  | .ldDtV x => [.reg x]
  | .ldStV x => [.reg x]
  | .addI x => [.reg x]
  | .ldF x => [.reg x]
  | .ldB x => [.reg x]
  | .ldMemV x => [.reg x]
  | .ldVMem x => [.reg x]

/-- An instruction is well formed when each of its operands fits (R102). -/
def Instr.wellFormed (i : Instr) : Bool := i.operands.all Operand.fits

end Sys2Proof
end

