-- ==== Sys2Proof/Decode.lean ====
section
/-! DEFINITION. The decoder and the encoder (spec 30_encoding.md). `decode` is total on 16-bit words and
rejects an unknown word by the name of its space (R97, R98); `decodeBytes` reads the word big-endian from
bytes (R62, R90); `encode` places the operands (R91, R102). `opcodeMap` is R94's table of match and mask,
held beside the decoder so that statements can compare the two. -/

namespace Sys2Proof

/-- `w[hi:lo]`, read as an unsigned number (R11). -/
def bits (w : Word) (hi lo : Nat) : Nat := w.toNat / 2 ^ lo % 2 ^ (hi + 1 - lo)

/-- The six fields of a word (R91). -/
structure Fields where
  /-- `w[15:12]`, the family. -/
  c : Nat
  /-- `w[11:8]`, a register index. -/
  x : Reg
  /-- `w[7:4]`, a register index. -/
  y : Reg
  /-- `w[3:0]`, the sub-opcode, or the row count of `DXYN`. -/
  d : Fin 16
  /-- `w[11:0]`, the address operand. -/
  nnn : Addr
  /-- `w[7:0]`, the immediate operand. -/
  kk : Byte
  deriving DecidableEq, Repr

/-- Every word's fields, all six of them (R91). -/
def fields (w : Word) : Fields where
  c := bits w 15 12
  x := Fin.ofNat 16 (bits w 11 8)
  y := Fin.ofNat 16 (bits w 7 4)
  d := Fin.ofNat 16 (bits w 3 0)
  nnn := BitVec.ofNat 12 (bits w 11 0)
  kk := BitVec.ofNat 8 (bits w 7 0)

/-- The spaces of unknown words (R98). -/
inductive UnknownSpace where
  /-- `0NNN` except `00E0` and `00EE` (R100). -/
  | sys
  /-- `5XYd` with d ≠ 0. -/
  | five
  /-- `8XYd` with d one of 8, 9, A, B, C, D, F. -/
  | eight
  /-- `9XYd` with d ≠ 0. -/
  | nine
  /-- `EXkk` with kk neither 9E nor A1. -/
  | keys
  /-- `FXkk` with kk none of the nine listed values. -/
  | misc
  deriving DecidableEq, Repr

/-- Why the decoder gives no instruction. -/
inductive Reject where
  /-- Fewer than two bytes: no word. -/
  | truncated
  /-- A word no row of R94 matches, and the space of R98 it lies in. -/
  | unknownOpcode (space : UnknownSpace) (word : Word)
  deriving DecidableEq, Repr

/-- Family 0: all 16 bits are fixed (R93 `FIX`, R97, R100). -/
def decode0 (w : Word) : Except Reject Instr :=
  if w = 0x00E0#16 then .ok .cls
  else if w = 0x00EE#16 then .ok .ret
  else .error (.unknownOpcode .sys w)

/-- Family 5: the low nibble is 0 (R97). -/
def decode5 (f : Fields) (w : Word) : Except Reject Instr :=
  if f.d = 0 then .ok (.seReg f.x f.y) else .error (.unknownOpcode .five w)

/-- Family 8: the low nibble selects the operation (R94 rows 10 to 18). -/
def decode8 (f : Fields) (w : Word) : Except Reject Instr :=
  match f.d.val with
  | 0x0 => .ok (.ldReg f.x f.y)
  | 0x1 => .ok (.orReg f.x f.y)
  | 0x2 => .ok (.andReg f.x f.y)
  | 0x3 => .ok (.xorReg f.x f.y)
  | 0x4 => .ok (.addReg f.x f.y)
  | 0x5 => .ok (.subReg f.x f.y)
  | 0x6 => .ok (.shr f.x f.y)
  | 0x7 => .ok (.subnReg f.x f.y)
  | 0xE => .ok (.shl f.x f.y)
  | _ => .error (.unknownOpcode .eight w)

/-- Family 9: the low nibble is 0 (R97). -/
def decode9 (f : Fields) (w : Word) : Except Reject Instr :=
  if f.d = 0 then .ok (.sneReg f.x f.y) else .error (.unknownOpcode .nine w)

/-- Family E: the low byte selects the operation (R94 rows 24, 25). -/
def decodeE (f : Fields) (w : Word) : Except Reject Instr :=
  match f.kk.toNat with
  | 0x9E => .ok (.skp f.x)
  | 0xA1 => .ok (.sknp f.x)
  | _ => .error (.unknownOpcode .keys w)

/-- Family F: the low byte selects the operation (R94 rows 26 to 34). -/
def decodeF (f : Fields) (w : Word) : Except Reject Instr :=
  match f.kk.toNat with
  | 0x07 => .ok (.ldVDt f.x)
  | 0x0A => .ok (.ldVK f.x)
  | 0x15 => .ok (.ldDtV f.x)
  | 0x18 => .ok (.ldStV f.x)
  | 0x1E => .ok (.addI f.x)
  | 0x29 => .ok (.ldF f.x)
  | 0x33 => .ok (.ldB f.x)
  | 0x55 => .ok (.ldMemV f.x)
  | 0x65 => .ok (.ldVMem f.x)
  | _ => .error (.unknownOpcode .misc w)

/-- The decoder: the instruction of the row that matches `w`, or the space of unknown words `w` lies in
(R94, R97, R98). `c` is a nibble, so the last arm is family F and nothing else. -/
def decode (w : Word) : Except Reject Instr :=
  let f := fields w
  match f.c with
  | 0x0 => decode0 w
  | 0x1 => .ok (.jp f.nnn)
  | 0x2 => .ok (.call f.nnn)
  | 0x3 => .ok (.seImm f.x f.kk)
  | 0x4 => .ok (.sneImm f.x f.kk)
  | 0x5 => decode5 f w
  | 0x6 => .ok (.ldImm f.x f.kk)
  | 0x7 => .ok (.addImm f.x f.kk)
  | 0x8 => decode8 f w
  | 0x9 => decode9 f w
  | 0xA => .ok (.ldI f.nnn)
  | 0xB => .ok (.jpV0 f.nnn)
  | 0xC => .ok (.rnd f.x f.kk)
  | 0xD => .ok (.drw f.x f.y f.d)
  | 0xE => decodeE f w
  | _ => decodeF f w

/-- `hi ++ lo = hi * 256 + lo`: the byte at the lower address holds bits 15..8 (R12, R62). -/
def joinBytes (hi lo : Byte) : Word := BitVec.ofNat 16 (hi.toNat * 256 + lo.toNat)

/-- Bits 15..8 of a word: the byte at the lower address (R62). -/
def hiByte (w : Word) : Byte := BitVec.ofNat 8 (bits w 15 8)

/-- Bits 7..0 of a word: the byte at the higher address (R62). -/
def loByte (w : Word) : Byte := BitVec.ofNat 8 (bits w 7 0)

/-- The decoder over bytes: one instruction is exactly two bytes (R90); it answers the rest of the list. -/
def decodeBytes : List Byte → Except Reject (Instr × List Byte)
  | hi :: lo :: rest =>
    match decode (joinBytes hi lo) with
    | .ok i => .ok (i, rest)
    | .error r => .error r
  | _ => .error .truncated

/-- The instruction the decoder reads from an opcode-table word of `nbits` bits: its two bytes laid out
big-endian, as memory holds them (R62). -/
def decodeTableWord (nbits w : Nat) : Option Instr :=
  let word := BitVec.ofNat 16 (w % 2 ^ nbits)
  match decodeBytes [hiByte word, loByte word] with
  | .ok (i, _) => some i
  | .error _ => none

/-- A word of format `NNN` (R93): family and address. -/
def packNNN (c : Nat) (nnn : Addr) : Word := BitVec.ofNat 16 (c * 4096 + nnn.toNat)

/-- A word of format `XKK`, or of `XOP` with a fixed `kk` (R93). -/
def packXKK (c : Nat) (x : Reg) (kk : Byte) : Word := BitVec.ofNat 16 (c * 4096 + x.val * 256 + kk.toNat)

/-- A word of format `XYD`, or of `XYN` with the row count as `d` (R93). -/
def packXYD (c : Nat) (x y : Reg) (d : Fin 16) : Word :=
  BitVec.ofNat 16 (c * 4096 + x.val * 256 + y.val * 16 + d.val)

/-- The encoder: each operand at the bit positions of R91, the fixed bits from R94 (R102). -/
def encode : Instr → Word
  | .cls => 0x00E0
  | .ret => 0x00EE
  | .jp nnn => packNNN 0x1 nnn
  | .call nnn => packNNN 0x2 nnn
  | .seImm x kk => packXKK 0x3 x kk
  | .sneImm x kk => packXKK 0x4 x kk
  | .seReg x y => packXYD 0x5 x y 0x0
  | .ldImm x kk => packXKK 0x6 x kk
  | .addImm x kk => packXKK 0x7 x kk
  | .ldReg x y => packXYD 0x8 x y 0x0
  | .orReg x y => packXYD 0x8 x y 0x1
  | .andReg x y => packXYD 0x8 x y 0x2
  | .xorReg x y => packXYD 0x8 x y 0x3
  | .addReg x y => packXYD 0x8 x y 0x4
  | .subReg x y => packXYD 0x8 x y 0x5
  | .shr x y => packXYD 0x8 x y 0x6
  | .subnReg x y => packXYD 0x8 x y 0x7
  | .shl x y => packXYD 0x8 x y 0xE
  | .sneReg x y => packXYD 0x9 x y 0x0
  | .ldI nnn => packNNN 0xA nnn
  | .jpV0 nnn => packNNN 0xB nnn
  | .rnd x kk => packXKK 0xC x kk
  | .drw x y n => packXYD 0xD x y n
  | .skp x => packXKK 0xE x 0x9E
  | .sknp x => packXKK 0xE x 0xA1
  | .ldVDt x => packXKK 0xF x 0x07
  | .ldVK x => packXKK 0xF x 0x0A
  | .ldDtV x => packXKK 0xF x 0x15
  | .ldStV x => packXKK 0xF x 0x18
  | .addI x => packXKK 0xF x 0x1E
  | .ldF x => packXKK 0xF x 0x29
  | .ldB x => packXKK 0xF x 0x33
  | .ldMemV x => packXKK 0xF x 0x55
  | .ldVMem x => packXKK 0xF x 0x65

/-- An instruction's two bytes, as they stand in memory (R62, R90). -/
def encodeBytes (i : Instr) : List Byte := [hiByte (encode i), loByte (encode i)]

/-- One row of R94: the pattern as the spec writes it, and the two numbers. -/
structure OpcodeRow where
  pattern : String
  /-- The spec's `match`. -/
  value : Word
  mask : Word
  deriving DecidableEq, Repr

/-- A word selects a row when `w & mask = match` (R94). -/
def OpcodeRow.selects (r : OpcodeRow) (w : Word) : Bool := w &&& r.mask == r.value

/-- The opcode map: R94's 34 rows, in its order. -/
def opcodeMap : List OpcodeRow :=
  [⟨"00E0", 0x00E0, 0xFFFF⟩,
   ⟨"00EE", 0x00EE, 0xFFFF⟩,
   ⟨"1NNN", 0x1000, 0xF000⟩,
   ⟨"2NNN", 0x2000, 0xF000⟩,
   ⟨"3XKK", 0x3000, 0xF000⟩,
   ⟨"4XKK", 0x4000, 0xF000⟩,
   ⟨"5XY0", 0x5000, 0xF00F⟩,
   ⟨"6XKK", 0x6000, 0xF000⟩,
   ⟨"7XKK", 0x7000, 0xF000⟩] ++
  [⟨"8XY0", 0x8000, 0xF00F⟩,
   ⟨"8XY1", 0x8001, 0xF00F⟩,
   ⟨"8XY2", 0x8002, 0xF00F⟩,
   ⟨"8XY3", 0x8003, 0xF00F⟩,
   ⟨"8XY4", 0x8004, 0xF00F⟩,
   ⟨"8XY5", 0x8005, 0xF00F⟩,
   ⟨"8XY6", 0x8006, 0xF00F⟩,
   ⟨"8XY7", 0x8007, 0xF00F⟩,
   ⟨"8XYE", 0x800E, 0xF00F⟩] ++
  [⟨"9XY0", 0x9000, 0xF00F⟩,
   ⟨"ANNN", 0xA000, 0xF000⟩,
   ⟨"BNNN", 0xB000, 0xF000⟩,
   ⟨"CXKK", 0xC000, 0xF000⟩,
   ⟨"DXYN", 0xD000, 0xF000⟩,
   ⟨"EX9E", 0xE09E, 0xF0FF⟩,
   ⟨"EXA1", 0xE0A1, 0xF0FF⟩,
   ⟨"FX07", 0xF007, 0xF0FF⟩] ++
  [⟨"FX0A", 0xF00A, 0xF0FF⟩,
   ⟨"FX15", 0xF015, 0xF0FF⟩,
   ⟨"FX18", 0xF018, 0xF0FF⟩,
   ⟨"FX1E", 0xF01E, 0xF0FF⟩,
   ⟨"FX29", 0xF029, 0xF0FF⟩,
   ⟨"FX33", 0xF033, 0xF0FF⟩,
   ⟨"FX55", 0xF055, 0xF0FF⟩,
   ⟨"FX65", 0xF065, 0xF0FF⟩]

end Sys2Proof
end

