-- ==== Sys2Proof/Config.lean ====
section
/-! DEFINITION. Configuration: the fixed sizes (R8), the named parameters (R10) as a type, and the free
values the spec leaves to the host (R121, R39). The parameters' defaults and the font bytes, which a test
could show wrong, stand in Sys2Proof/Machine/Hardware.lean. -/

namespace Sys2Proof.Config

/-- `MEM_SIZE`: memory is 4096 bytes (R8, R60). -/
abbrev memSize : Nat := 4096

/-- `PROG_START`: programs load, and execution starts, at 0x200 (R8, R291). -/
abbrev progStart : Nat := 0x200

/-- `PROG_CAPACITY`: the largest program image, 3584 bytes (R8, R70). -/
abbrev progCapacity : Nat := memSize - progStart

/-- `STACK_DEPTH`: 16 return addresses (R8, R28). -/
abbrev stackDepth : Nat := 16

/-- The last address an instruction can be fetched from, `MEM_SIZE - 2` (R27, R124). -/
abbrev lastFetch : Nat := 0xFFE

/-- `shift_source` (R10, D6): which register `8XY6` and `8XYE` shift. -/
inductive ShiftSource where
  | vx
  | vy
  deriving DecidableEq, Repr

/-- `reset_regs` (R10, D17): what `reset` leaves in the elements the source gives no reset value for. -/
inductive ResetRegs where
  | zero
  | arbitrary
  deriving DecidableEq, Repr

/-- The named configuration parameters of R10. -/
structure Params where
  /-- `shift_source`: the source operand of `8XY6` and `8XYE` (D6). -/
  shiftSource : ShiftSource
  /-- `dump_inclusive`: whether `FX55` and `FX65` reach `Vx` itself (D7). -/
  dumpInclusive : Bool
  /-- `unknown_opcode_halts`: an unknown opcode is a fault instead of a report (D8). -/
  unknownOpcodeHalts : Bool
  /-- `max_ticks_per_step`: the largest tick count of one step; `none` is `unbounded` (D9). -/
  maxTicksPerStep : Option Nat
  /-- `reset_regs` (D17). -/
  resetRegs : ResetRegs
  deriving DecidableEq, Repr

/-- The state elements R39 marks D17, whose reset values the source does not state. -/
structure ResetDraw where
  V : Vector Byte 16
  I : Word
  sp : Fin 17
  stack : Vector Word 16
  DT : Byte
  ST : Byte
  fb : Framebuffer
  keys : Vector Bool 16
  deriving DecidableEq, Repr, Inhabited

/-- The draw of `reset_regs = zero`: the values of R39's table. -/
def ResetDraw.zero : ResetDraw where
  V := Vector.replicate 16 0
  I := 0
  sp := 0
  stack := Vector.replicate 16 0
  DT := 0
  ST := 0
  fb := Vector.replicate 32 (Vector.replicate 64 false)
  keys := Vector.replicate 16 false

/-- The host's random byte for its `n`-th step: a free input without a law (R121, R183, D20). -/
opaque freeRnd : Nat → Byte

/-- The timer periods the host counts for its `n`-th step, before the bound: free (R121, R249, D9). -/
opaque freeTicks : Nat → Nat

/-- The elements marked D17 after a `reset` under `reset_regs = arbitrary`: a free draw (R39, D17). -/
opaque freeReset : Nat → ResetDraw

end Sys2Proof.Config
end

