-- ==== Sys2Proof/Machine/Hardware.lean ====
section
/-! DEFINITION. The values of this hardware: the defaults of the named parameters (spec 00_scope.md R10) and the
font table (20_memory.md R67). -/

namespace Sys2Proof.Config

/-- The defaults of R10: "the default is the behaviour of this hardware". -/
def params : Params where
  shiftSource := .vx
  dumpInclusive := false
  unknownOpcodeHalts := false
  maxTicksPerStep := some 1
  resetRegs := .zero

/-- `FONT`: 16 glyphs of 5 bytes, glyph `g` at `5*g` (R66, R67). -/
def font : List Byte :=
  [0xF0, 0x90, 0x90, 0x90, 0xF0] ++ [0x20, 0x60, 0x20, 0x20, 0x70] ++
  [0xF0, 0x10, 0xF0, 0x80, 0xF0] ++ [0xF0, 0x10, 0xF0, 0x10, 0xF0] ++
  [0x90, 0x90, 0xF0, 0x10, 0x10] ++ [0xF0, 0x80, 0xF0, 0x10, 0xF0] ++
  [0xF0, 0x80, 0xF0, 0x90, 0xF0] ++ [0xF0, 0x10, 0x20, 0x40, 0x40] ++
  [0xF0, 0x90, 0xF0, 0x90, 0xF0] ++ [0xF0, 0x90, 0xF0, 0x10, 0xF0] ++
  [0xF0, 0x90, 0xF0, 0x90, 0x90] ++ [0xE0, 0x90, 0xE0, 0x90, 0xE0] ++
  [0xF0, 0x80, 0x80, 0x80, 0xF0] ++ [0xE0, 0x90, 0x90, 0x90, 0xE0] ++
  [0xF0, 0x80, 0xF0, 0x80, 0xF0] ++ [0xF0, 0x80, 0xF0, 0x80, 0x80]

end Sys2Proof.Config
end

