-- ==== Sys2Proof/Machine/State.lean ====
section
/-! DEFINITION. The machine's state (spec 10_state.md R20): the spec's tuple, element by element, and beside it
the model's own fields for what passes between the core and the host in one step (40_dispatch.md R121, R122). -/

namespace Sys2Proof.Machine

/-- Memory as plain data: the (address, byte) pairs in which it differs from its contents after reset, by
rising address (Machine/Ops.lean says what an unlisted address reads as, and what canonical means). -/
abbrev Memory := List Host.Cell

/-- The causes of a fault with what each records in `info` (60_exceptions.md R260). `RomTooLarge` is not one:
it is a result of `load` (R265). -/
inductive FaultCause where
  /-- Code 1: `2NNN` with `sp = 16` (R153). -/
  | stackOverflow
  /-- Code 2: `00EE` with `sp = 0` (R151). -/
  | stackUnderflow
  /-- Code 3: an unknown word under `unknown_opcode_halts` (R132). -/
  | unimplementedOpcode
  /-- Code 5: a fetch with `pc > 0xFFE` (R124). -/
  | pcOutOfRange
  /-- Code 6: an access at 0x1000 or above, with the lowest such address (R64). -/
  | memoryOutOfRange (address : Nat)
  /-- Code 7: a key index of 16 or more, with the value of `Vx` (R240). -/
  | keyIndexOutOfRange (value : Byte)
  deriving DecidableEq, Repr

/-- A fault record `{kind, pc, word, info}` (R35, R263); `info` is the cause's argument. -/
structure FaultRecord where
  cause : FaultCause
  /-- The address of the step that faulted. -/
  pc : Word
  /-- The fetched word; `none` where nothing was fetched (`PcOutOfRange`, R260). -/
  word : Option Word
  deriving DecidableEq, Repr

/-- What a step returns to the host (R122). -/
inductive StepStatus where
  /-- The instruction ran. -/
  | ok
  /-- An unknown opcode was skipped: `Reported(UnimplementedOpcode, pc, word)` (R131). -/
  | reported (pc word : Word)
  /-- This step raised a fault, and the core has halted (R263). -/
  | fault (r : FaultRecord)
  /-- The core was already halted, and the step did nothing (R123). -/
  | halted (r : FaultRecord)
  deriving DecidableEq, Repr

/-- The two inputs of one step (R121): the timer periods the host has counted, and the random byte. -/
structure StepInput where
  ticks : Nat
  rnd : Byte
  deriving DecidableEq, Repr

/-- The machine. -/
structure State where
  /-- `mem`: 4096 bytes (R60). -/
  mem : Memory
  /-- `V0`..`VF` (R21). -/
  V : Vector Byte 16
  /-- The index register (R25). -/
  I : Word
  /-- The program counter: the address the next step fetches from (R26). -/
  pc : Word
  /-- The call stack's 16 entries (R28). -/
  stack : Vector Word 16
  /-- How many entries are valid, 0..16 (R29). -/
  sp : Fin 17
  /-- The delay timer (R31). -/
  DT : Byte
  /-- The sound timer (R31). -/
  ST : Byte
  /-- The framebuffer, `fb[y][x]` (R33). -/
  fb : Framebuffer
  /-- The input latch (R34). -/
  keys : Vector Bool 16
  /-- The fault latch (R35). -/
  fault : Option FaultRecord
  /-- MODEL'S OWN: the status the last step returned, an output (R122, R145; log 2). -/
  status : Option StepStatus
  /-- MODEL'S OWN: the inputs the host has named for the coming steps, the next step's first (log 3). -/
  inputs : List StepInput
  /-- MODEL'S OWN: which of the host's inputs is the next one; the free values are applied to it (log 3). -/
  inputNo : Nat
  deriving DecidableEq, Repr

/-- The reasons a step could stop without a next state. There are none: every condition the spec calls a fault
has an entry the spec describes (R262, R263), so it is a next state with the latch set (log 1). -/
inductive Fault where
  deriving DecidableEq, Repr

/-- The reasons an instruction has no meaning in the model. -/
inductive Refusal where
  /-- Raised only by an arm of `exec` whose instruction has no meaning yet; no arm raises it. Safe: nothing can
  be proved of a run that stops here. -/
  | notModelled (mnemonic : String)
  deriving DecidableEq, Repr

/-- What a step or a meaning answers. -/
abbrev Out := Host.Outcome State Fault Refusal

/-- The state after reset, given the values of the elements whose reset value the source does not state
(R39, R139). -/
def State.resetFrom (d : Config.ResetDraw) : State where
  mem := []
  V := d.V
  I := d.I
  pc := 0x200
  stack := d.stack
  sp := d.sp
  DT := d.DT
  ST := d.ST
  fb := d.fb
  keys := d.keys
  fault := none
  status := none
  inputs := []
  inputNo := 0

/-- The machine right after reset, under this hardware's `reset_regs = zero` (R39). -/
def State.reset : State := State.resetFrom Config.ResetDraw.zero

end Sys2Proof.Machine
end

