-- ==== Sys2Proof/Machine/Ops.lean ====
section
/-! DEFINITION. The named operations over memory, registers, the stack, the framebuffer, the keys and the
timers, and fault entry. Every meaning is built from these. -/

namespace Sys2Proof.Machine

/-! ## Memory (20_memory.md) -/

/-- What an address nothing has written reads as: the font, then zeros (R39, R66). -/
def Memory.resetByte (a : Nat) : Byte := Config.font.getD a 0

/-- The byte at an address of the address space (R69: the last value written, or the reset value). -/
def Memory.byteAt : Memory → Nat → Byte
  | [], a => Memory.resetByte a
  | (k, b) :: m, a => if k = a then b else Memory.byteAt m a

/-- `MemRead(a, 1)`: `none` where it raises `MemoryOutOfRange` (R13, R64). -/
def Memory.read (m : Memory) (a : Nat) : Option Byte :=
  if a < Config.memSize then some (m.byteAt a) else none

/-- Drops whatever the list says of address `a`: it then reads as after reset. -/
def Memory.erase : Memory → Nat → Memory
  | [], _ => []
  | (k, c) :: m, a => if k = a then Memory.erase m a else (k, c) :: Memory.erase m a

/-- Lists `b` for address `a`, before the first greater address. -/
def Memory.insert : Memory → Nat → Byte → Memory
  | [], a, b => [(a, b)]
  | (k, c) :: m, a, b => if k < a then (k, c) :: Memory.insert m a b else (a, b) :: (k, c) :: m

/-- `mem[a] <- b` (R13, R69), keeping the list in its canonical form: the byte an unlisted address reads as is not
listed. -/
def Memory.write (m : Memory) (a : Nat) (b : Byte) : Memory :=
  if b = Memory.resetByte a then m.erase a else (m.erase a).insert a b

/-- Canonical from `lo` on: addresses strictly rising, inside the address space, and no byte equal to what the
unlisted address reads as. -/
def Memory.wfFrom (lo : Nat) : Memory → Bool
  | [] => true
  | (a, b) :: m => lo ≤ a && a < Config.memSize && b != Memory.resetByte a && Memory.wfFrom (a + 1) m

/-- The canonical form: equal memories are equal lists. -/
def Memory.wf (m : Memory) : Bool := Memory.wfFrom 0 m

/-- The lowest address at or above 0x1000 among `a .. a+cnt-1`, if there is one; the sums are exact (R64). -/
def lowestBad (a cnt : Nat) : Option Nat :=
  if 0 < cnt ∧ Config.memSize ≤ a + cnt - 1 then some (max a Config.memSize) else none

/-- The `cnt` bytes from `a` on, at ascending addresses (R63). -/
def Memory.readSeq (m : Memory) (a : Nat) : Nat → List Byte
  | 0 => []
  | cnt + 1 => m.byteAt a :: Memory.readSeq m (a + 1) cnt

/-- Writes the bytes from `a` on, at ascending addresses (R63). -/
def Memory.writeSeq (m : Memory) (a : Nat) : List Byte → Memory
  | [] => m
  | b :: bs => Memory.writeSeq (m.write a b) (a + 1) bs

/-- Reads `cnt` bytes from `a` on, after the check of the whole range (R64): the lowest bad address, or the
bytes. -/
def Memory.loadBlock (m : Memory) (a cnt : Nat) : Except Nat (List Byte) :=
  match lowestBad a cnt with
  | some bad => .error bad
  | none => .ok (m.readSeq a cnt)

/-- Writes bytes from `a` on, after the check of the whole range and before any write (R64): the lowest bad
address, or the new memory. -/
def Memory.storeBlock (m : Memory) (a : Nat) (bs : List Byte) : Except Nat Memory :=
  match lowestBad a bs.length with
  | some bad => .error bad
  | none => .ok (m.writeSeq a bs)

/-! ## Registers and the program counter -/

/-- `V[x]` (R13, R21). -/
def State.reg (s : State) (x : Reg) : Byte := s.V[x]

/-- `V[x] <- b` (R13, R21). -/
def State.setReg (s : State) (x : Reg) (b : Byte) : State := { s with V := s.V.set x b }

/-- Registers `V[k]`, `V[k+1]`, … from the bytes, in ascending order (R206). -/
def setRegsFrom (v : Vector Byte 16) (k : Nat) : List Byte → Vector Byte 16
  | [] => v
  | b :: bs => setRegsFrom (v.setIfInBounds k b) (k + 1) bs

/-- `V[0], V[1], …` from the bytes (R206). -/
def State.setRegs (s : State) (bs : List Byte) : State := { s with V := setRegsFrom s.V 0 bs }

/-- `I <- w` (R25). -/
def State.setI (s : State) (w : Word) : State := { s with I := w }

/-- Replaces the contents of `mem`. -/
def State.setMem (s : State) (m : Memory) : State := { s with mem := m }

/-- `pc <- target` (R13). -/
def State.jump (s : State) (target : Word) : State := { s with pc := target }

/-- `pc <- pc + 2`: the default (R128). -/
def State.advance (s : State) : State := s.jump (s.pc + 2)

/-- `pc <- c ? pc + 4 : pc + 2`: the skip mechanism (R154). -/
def State.skipIf (s : State) (c : Bool) : State := s.jump (if c then s.pc + 4 else s.pc + 2)

/-! ## The call stack (R28, R29) -/

/-- `stack[sp] <- w; sp <- sp + 1`; `none` when 16 addresses are stacked (R153). -/
def State.push (s : State) (w : Word) : Option State :=
  if h : s.sp.val < 16 then
    some { s with stack := s.stack.set s.sp.val w, sp := ⟨s.sp.val + 1, by omega⟩ }
  else none

/-- `sp <- sp - 1`, with the address `stack[sp]`, which keeps its value (R30); `none` when the stack is empty
(R151). -/
def State.pop (s : State) : Option (Word × State) :=
  if 0 < s.sp.val then
    some (s.stack[s.sp.val - 1], { s with sp := ⟨s.sp.val - 1, by omega⟩ })
  else none

/-! ## The framebuffer (R33) -/

/-- `fb[y][x]` (R33). -/
def pixel (fb : Framebuffer) (x : Fin 64) (y : Fin 32) : Bool := fb[y][x]

/-- `fb[y][x] <- b` (R33). -/
def setPixel (fb : Framebuffer) (x : Fin 64) (y : Fin 32) (b : Bool) : Framebuffer :=
  fb.set y (fb[y].set x b)

/-- Every pixel 0 (R221). -/
def blankFb : Framebuffer := Vector.replicate 32 (Vector.replicate 64 false)

/-- Replaces the contents of `fb`. -/
def State.setFb (s : State) (fb : Framebuffer) : State := { s with fb := fb }

/-! ## The input latch (R34, R240, R244) -/

/-- The key a byte names, if there is one (R240). -/
def keyIndex (b : Byte) : Option (Fin 16) := if h : b.toNat < 16 then some ⟨b.toNat, h⟩ else none

/-- The index of the first pressed key of a list whose first key has index `n`. -/
def lowestFrom (n : Nat) : List Bool → Option Nat
  | [] => none
  | true :: _ => some n
  | false :: ks => lowestFrom (n + 1) ks

/-- `min { k | keys[k] = true }`, if any key is pressed (R244). -/
def lowestKey (keys : Vector Bool 16) : Option Nat := lowestFrom 0 keys.toList

/-! ## The timers and the step's inputs (R121, R248, R249) -/

/-- `DT <- b`. -/
def State.setDT (s : State) (b : Byte) : State := { s with DT := b }

/-- `ST <- b`. -/
def State.setST (s : State) (b : Byte) : State := { s with ST := b }

/-- `k` ticks of one timer: `(t > k) ? t - k : 0` (R248). -/
def tickTimer (k : Nat) (t : Byte) : Byte := if k < t.toNat then BitVec.ofNat 8 (t.toNat - k) else 0

/-- The tick phase with `k` ticks, the same count for both timers (R247, R248). -/
def State.tick (s : State) (k : Nat) : State := { s with DT := tickTimer k s.DT, ST := tickTimer k s.ST }

/-- The bound `ticks ≤ max_ticks_per_step` on the periods the host has counted (R121, R249; log 4). -/
def boundTicks (p : Config.Params) (k : Nat) : Nat :=
  match p.maxTicksPerStep with
  | some m => min k m
  | none => k

/-- The step's input `ticks` (R121): the next one the host has named, else a free value. -/
def State.ticks (p : Config.Params) (s : State) : Nat :=
  match s.inputs with
  | i :: _ => boundTicks p i.ticks
  | [] => boundTicks p (Config.freeTicks s.inputNo)

/-- The step's input `rnd` (R121): the next one the host has named, else a free value. -/
def State.rnd (s : State) : Byte :=
  match s.inputs with
  | i :: _ => i.rnd
  | [] => Config.freeRnd s.inputNo

/-- The end of a step: it returns `st` to the host, and its inputs are spent. -/
def State.returning (s : State) (st : StepStatus) : State :=
  { s with status := some st, inputs := s.inputs.tail, inputNo := s.inputNo + 1 }

/-! ## Fault entry (60_exceptions.md R262, R263)

There is no return from a fault: only the host's `reset` clears the latch (R139, R270;
Sys2Proof/Machine/HostOps.lean). `00EE` is a subroutine return (R270). -/

/-- The numeric code of a cause (R260). -/
def FaultCause.code : FaultCause → Nat
  | .stackOverflow => 1
  | .stackUnderflow => 2
  | .unimplementedOpcode => 3
  | .pcOutOfRange => 5
  | .memoryOutOfRange _ => 6
  | .keyIndexOutOfRange _ => 7

/-- The code of `RomTooLarge`, the one error that is not a fault (R260, R265). -/
def romTooLargeCode : Nat := 4

/-- `raise F(info)`: sets the fault latch to the record, and changes nothing else (R262, R263). -/
def State.raise (s : State) (cause : FaultCause) (word : Option Word) : State :=
  { s with fault := some { cause := cause, pc := s.pc, word := word } }

/-- A fault of the instruction `i` at `pc`: the word recorded is the one fetched, which is `i`'s encoding
(strict decoding leaves no other; log 7). -/
def State.raiseIn (s : State) (i : Instr) (cause : FaultCause) : State := s.raise cause (some (encode i))

end Sys2Proof.Machine
end

