-- ==== Sys2Proof/Machine/Operands.lean ====
section
/-! DEFINITION. The operand forms (spec 30_encoding.md R92, 42_alu.md R180 and R182, 43_index_memory.md R200,
R205, R206): what each kind of operand reads as. A register operand is `State.reg`; an immediate `kk` is the
byte itself, never sign-extended. -/

namespace Sys2Proof.Machine

/-- `nnn` zero-extended to 16 bits, neither scaled nor shifted (R92). -/
def addrOperand (nnn : Addr) : Word := nnn.setWidth 16

/-- `nnn + V0`, the exact sum, at most 0x10FE (R160). -/
def offsetOperand (nnn : Addr) (o : Byte) : Word := BitVec.ofNat 16 (nnn.toNat + o.toNat)

/-- The source of `8XY6` and `8XYE`: `Vx`, or `Vy` under `shift_source = vy` (R180, R182). -/
def shiftOperand (p : Config.Params) (x y : Reg) (s : State) : Byte :=
  match p.shiftSource with
  | .vx => s.reg x
  | .vy => s.reg y

/-- How many registers `FX55` and `FX65` move: `x`, or `x + 1` under `dump_inclusive` (R205, R206). -/
def blockCount (p : Config.Params) (x : Reg) : Nat := if p.dumpInclusive then x.val + 1 else x.val

/-- The data address `I`, as a number: `I + k` is exact (R200). -/
def State.dataAddr (s : State) : Nat := s.I.toNat

/-- The address of glyph `v`: `5·v`, with no mask (R203). -/
def glyphAddr (v : Byte) : Word := BitVec.ofNat 16 (v.toNat * 5)

/-- Hundreds, tens and ones of `v` (R204). -/
def bcdDigits (v : Byte) : List Byte :=
  [BitVec.ofNat 8 (v.toNat / 100), BitVec.ofNat 8 (v.toNat / 10 % 10), BitVec.ofNat 8 (v.toNat % 10)]

end Sys2Proof.Machine
end

