-- ==== Sys2Proof/Machine/Flags.lean ====
section
/-! DEFINITION. The flag computations (spec 42_alu.md R177 to R182, 44_display.md R223) and the order of the
result and the flag (R177, decision D5). The only flag is `VF` (10_state.md R22, R38). -/

namespace Sys2Proof.Machine

/-- A flag as the byte written to `VF`: 1 or 0 (R177). -/
def flagByte (c : Bool) : Byte := if c then 1 else 0

/-- Carry: `Vx + Vy > 255` (R178). -/
def carryOf (a b : Byte) : Bool := 255 < a.toNat + b.toNat

/-- Not-borrow of `a - b`: `a > b`, strictly; equal operands give 0 (R179, R181; 90_conflicts.md C6). -/
def notBorrowOf (a b : Byte) : Bool := b.toNat < a.toNat

/-- The bit a right shift drops: the old bit 0 (R180). -/
def lowBitOf (v : Byte) : Bool := v.toNat % 2 == 1

/-- The bit a left shift drops: the old bit 7 (R182). -/
def highBitOf (v : Byte) : Bool := v.toNat / 128 % 2 == 1

/-- `V[x] <- result`, and last `V[15] <- flag`: with `x = F` the flag stays (R177). -/
def State.setResultFlag (s : State) (x : Reg) (result : Byte) (flag : Bool) : State :=
  (s.setReg x result).setReg VF (flagByte flag)

end Sys2Proof.Machine
end

