-- ==== Sys2Proof/Machine/Alu.lean ====
section
/-! DEFINITION. The ALU: the meanings of spec 42_alu.md. Every operand is read from the state before the
instruction (R170), and no instruction here can fault. -/

namespace Sys2Proof.Machine

/-- `6XKK` LD Vx, kk (R171). -/
def execLdImm (x : Reg) (kk : Byte) (s : State) : Out := .next (s.setReg x kk).advance

/-- `7XKK` ADD Vx, kk: mod 256, no flag (R172). -/
def execAddImm (x : Reg) (kk : Byte) (s : State) : Out := .next (s.setReg x (s.reg x + kk)).advance

/-- `8XY0` LD Vx, Vy (R173). -/
def execLdReg (x y : Reg) (s : State) : Out := .next (s.setReg x (s.reg y)).advance

/-- `8XY1` OR Vx, Vy: no flag (R174). -/
def execOrReg (x y : Reg) (s : State) : Out := .next (s.setReg x (s.reg x ||| s.reg y)).advance

/-- `8XY2` AND Vx, Vy: no flag (R175). -/
def execAndReg (x y : Reg) (s : State) : Out := .next (s.setReg x (s.reg x &&& s.reg y)).advance

/-- `8XY3` XOR Vx, Vy: no flag (R176). -/
def execXorReg (x y : Reg) (s : State) : Out := .next (s.setReg x (s.reg x ^^^ s.reg y)).advance

/-- `8XY4` ADD Vx, Vy: `VF` is the carry (R178). -/
def execAddReg (x y : Reg) (s : State) : Out :=
  let a := s.reg x
  let b := s.reg y
  .next (s.setResultFlag x (a + b) (carryOf a b)).advance

/-- `8XY5` SUB Vx, Vy: `VF` is `Vx > Vy` (R179). -/
def execSubReg (x y : Reg) (s : State) : Out :=
  let a := s.reg x
  let b := s.reg y
  .next (s.setResultFlag x (a - b) (notBorrowOf a b)).advance

/-- `8XY6` under the parameters `p` (R180). -/
def shrUnder (p : Config.Params) (x y : Reg) (s : State) : Out :=
  let v := shiftOperand p x y s
  .next (s.setResultFlag x (v >>> 1) (lowBitOf v)).advance

/-- `8XY6` SHR Vx (R180). -/
def execShr (x y : Reg) (s : State) : Out := shrUnder Config.params x y s

/-- `8XY7` SUBN Vx, Vy: `VF` is `Vy > Vx` (R181). -/
def execSubnReg (x y : Reg) (s : State) : Out :=
  let a := s.reg x
  let b := s.reg y
  .next (s.setResultFlag x (b - a) (notBorrowOf b a)).advance

/-- `8XYE` under the parameters `p` (R182). -/
def shlUnder (p : Config.Params) (x y : Reg) (s : State) : Out :=
  let v := shiftOperand p x y s
  .next (s.setResultFlag x (v <<< 1) (highBitOf v)).advance

/-- `8XYE` SHL Vx (R182). -/
def execShl (x y : Reg) (s : State) : Out := shlUnder Config.params x y s

/-- `CXKK` RND Vx, kk: the step's random byte, masked (R183). -/
def execRnd (x : Reg) (kk : Byte) (s : State) : Out := .next (s.setReg x (s.rnd &&& kk)).advance

end Sys2Proof.Machine
end

