-- ==== Sys2Proof/Machine/ControlFlow.lean ====
section
/-! DEFINITION. Control flow: the meanings of spec 41_control_flow.md. In each, `s.pc` is the address the
instruction was fetched from (40_dispatch.md R129). -/

namespace Sys2Proof.Machine

/-- `00EE` RET (R151). -/
def execRet (s : State) : Out :=
  match s.pop with
  | none => .next (s.raiseIn .ret .stackUnderflow)
  | some (target, t) => .next (t.jump target)

/-- `1NNN` JP nnn (R152). -/
def execJp (nnn : Addr) (s : State) : Out := .next (s.jump (addrOperand nnn))

/-- `2NNN` CALL nnn (R153): the address pushed is that of the next instruction. -/
def execCall (nnn : Addr) (s : State) : Out :=
  match s.push (s.pc + 2) with
  | none => .next (s.raiseIn (.call nnn) .stackOverflow)
  | some t => .next (t.jump (addrOperand nnn))

/-- `3XKK` SE Vx, kk (R155). -/
def execSeImm (x : Reg) (kk : Byte) (s : State) : Out := .next (s.skipIf (s.reg x == kk))

/-- `4XKK` SNE Vx, kk (R156). -/
def execSneImm (x : Reg) (kk : Byte) (s : State) : Out := .next (s.skipIf (s.reg x != kk))

/-- `5XY0` SE Vx, Vy (R157). -/
def execSeReg (x y : Reg) (s : State) : Out := .next (s.skipIf (s.reg x == s.reg y))

/-- `9XY0` SNE Vx, Vy (R158). -/
def execSneReg (x y : Reg) (s : State) : Out := .next (s.skipIf (s.reg x != s.reg y))

/-- `BNNN` JP V0, nnn (R160): the offset register is `V0` whatever the word's bits 11..8. -/
def execJpV0 (nnn : Addr) (s : State) : Out := .next (s.jump (offsetOperand nnn (s.reg 0)))

end Sys2Proof.Machine
end

