-- ==== Sys2Proof/Machine/Display.lean ====
section
/-! DEFINITION. The framebuffer and the sprite blitter: the meanings of spec 44_display.md. -/

namespace Sys2Proof.Machine

/-- The framebuffer while a sprite is drawn, and whether a pixel has gone from set to clear so far (R223). -/
structure Canvas where
  fb : Framebuffer
  hit : Bool
  deriving DecidableEq, Repr

/-- Column `x` wrapped mod 64 (R224). -/
def wrapX (x : Nat) : Fin 64 := Fin.ofNat 64 x

/-- Row `y` wrapped mod 32 (R224). -/
def wrapY (y : Nat) : Fin 32 := Fin.ofNat 32 y

/-- Toggles the pixel at `(x mod 64, y mod 32)`, and notes a set-to-clear transition (R223). -/
def Canvas.toggle (k : Canvas) (x y : Nat) : Canvas where
  fb := setPixel k.fb (wrapX x) (wrapY y) (!pixel k.fb (wrapX x) (wrapY y))
  hit := k.hit || pixel k.fb (wrapX x) (wrapY y)

/-- Bit `7 - c` of a row byte: the sprite's column `c`, bit 7 leftmost (R222). -/
def spriteBit (b : Byte) (c : Nat) : Bool := b.toNat / 2 ^ (7 - c) % 2 == 1

/-- One row of 8 pixels, from column offset `c` on, with `left` columns still to go (R223). -/
def Canvas.drawCols (k : Canvas) (x y : Nat) (b : Byte) (c : Nat) : Nat → Canvas
  | 0 => k
  | left + 1 => Canvas.drawCols (if spriteBit b c then k.toggle (x + c) y else k) x y b (c + 1) left

/-- The rows of a sprite, the first at row `y` (R223). -/
def Canvas.drawRows (k : Canvas) (x y : Nat) : List Byte → Canvas
  | [] => k
  | b :: bs => Canvas.drawRows (k.drawCols x y b 0 8) x (y + 1) bs

/-- A whole sprite onto a framebuffer, with the aggregate collision flag (R223, R225). -/
def blit (fb : Framebuffer) (x y : Nat) (rows : List Byte) : Canvas :=
  Canvas.drawRows { fb := fb, hit := false } x y rows

/-- `00E0` CLS (R221). -/
def execCls (s : State) : Out := .next (s.setFb blankFb).advance

/-- `DXYN` DRW Vx, Vy, n (R223): coordinates and bytes are read first, `VF` is written last. -/
def execDrw (x y : Reg) (n : Fin 16) (s : State) : Out :=
  match s.mem.loadBlock s.dataAddr n.val with
  | .error bad => .next (s.raiseIn (.drw x y n) (.memoryOutOfRange bad))
  | .ok rows =>
    let k := blit s.fb (s.reg x).toNat (s.reg y).toNat rows
    .next ((s.setFb k.fb).setReg VF (flagByte k.hit)).advance

end Sys2Proof.Machine
end

