-- ==== Sys2Proof/Machine/IndexMemory.lean ====
section
/-! DEFINITION. The index register and the memory block operations: the meanings of spec 43_index_memory.md.
No access changes `I`, and a block's whole range is checked before any write (R200). -/

namespace Sys2Proof.Machine

/-- `ANNN` LD I, nnn (R201). -/
def execLdI (nnn : Addr) (s : State) : Out := .next (s.setI (addrOperand nnn)).advance

/-- `FX1E` ADD I, Vx: mod 65536, no flag (R202). -/
def execAddI (x : Reg) (s : State) : Out := .next (s.setI (s.I + (s.reg x).setWidth 16)).advance

/-- `FX29` LD F, Vx (R203). -/
def execLdF (x : Reg) (s : State) : Out := .next (s.setI (glyphAddr (s.reg x))).advance

/-- `FX33` LD B, Vx (R204). -/
def execLdB (x : Reg) (s : State) : Out :=
  match s.mem.storeBlock s.dataAddr (bcdDigits (s.reg x)) with
  | .error bad => .next (s.raiseIn (.ldB x) (.memoryOutOfRange bad))
  | .ok m => .next (s.setMem m).advance

/-- `FX55` under the parameters `p` (R205). -/
def dumpUnder (p : Config.Params) (x : Reg) (s : State) : Out :=
  match s.mem.storeBlock s.dataAddr (s.V.toList.take (blockCount p x)) with
  | .error bad => .next (s.raiseIn (.ldMemV x) (.memoryOutOfRange bad))
  | .ok m => .next (s.setMem m).advance

/-- `FX55` LD [I], Vx (R205). -/
def execLdMemV (x : Reg) (s : State) : Out := dumpUnder Config.params x s

/-- `FX65` under the parameters `p` (R206). -/
def loadUnder (p : Config.Params) (x : Reg) (s : State) : Out :=
  match s.mem.loadBlock s.dataAddr (blockCount p x) with
  | .error bad => .next (s.raiseIn (.ldVMem x) (.memoryOutOfRange bad))
  | .ok bs => .next (s.setRegs bs).advance

/-- `FX65` LD Vx, [I] (R206). -/
def execLdVMem (x : Reg) (s : State) : Out := loadUnder Config.params x s

end Sys2Proof.Machine
end

