-- ==== Sys2Proof/Machine/TimersInput.lean ====
section
/-! DEFINITION. The input latch and the timers: the meanings of spec 45_timers_input.md. The tick phase is the
step's, after these (40_dispatch.md R130). -/

namespace Sys2Proof.Machine

/-- `EX9E` SKP Vx (R240, R241). -/
def execSkp (x : Reg) (s : State) : Out :=
  match keyIndex (s.reg x) with
  | none => .next (s.raiseIn (.skp x) (.keyIndexOutOfRange (s.reg x)))
  | some k => .next (s.skipIf s.keys[k])

/-- `EXA1` SKNP Vx (R240, R242). -/
def execSknp (x : Reg) (s : State) : Out :=
  match keyIndex (s.reg x) with
  | none => .next (s.raiseIn (.sknp x) (.keyIndexOutOfRange (s.reg x)))
  | some k => .next (s.skipIf (!s.keys[k]))

/-- `FX07` LD Vx, DT: the value before this step's ticks (R243). -/
def execLdVDt (x : Reg) (s : State) : Out := .next (s.setReg x s.DT).advance

/-- `FX0A` LD Vx, K: the lowest pressed key, or the same instruction again (R244). -/
def execLdVK (x : Reg) (s : State) : Out :=
  match lowestKey s.keys with
  | none => .next (s.jump s.pc)
  | some k => .next (s.setReg x (BitVec.ofNat 8 k)).advance

/-- `FX15` LD DT, Vx (R245). -/
def execLdDtV (x : Reg) (s : State) : Out := .next (s.setDT (s.reg x)).advance

/-- `FX18` LD ST, Vx (R246). -/
def execLdStV (x : Reg) (s : State) : Out := .next (s.setST (s.reg x)).advance

end Sys2Proof.Machine
end

