-- ==== Sys2Proof/Machine/Cycle.lean ====
section
/-! DEFINITION. The phases of a step (spec 40_dispatch.md R120 to R132): halt check, fetch, decode, dispatch,
tick; and the placing of a word where the next step fetches. Machine/Step.lean only calls these. -/

namespace Sys2Proof.Machine

/-- `exec` under the parameters `p`: four instructions read a parameter (R180, R182, R205, R206), and every
other one is `exec`'s. -/
def execUnder (p : Config.Params) (i : Instr) (s : State) : Out :=
  match i with
  | .shr x y => shrUnder p x y s
  | .shl x y => shlUnder p x y s
  | .ldMemV x => dumpUnder p x s
  | .ldVMem x => loadUnder p x s
  | j => exec j s

/-- `Fetch(pc)`: the two bytes at `pc`, big-endian (R62, R125). -/
def State.fetch (s : State) : Word :=
  joinBytes (s.mem.byteAt s.pc.toNat) (s.mem.byteAt (s.pc.toNat + 1))

/-- The unknown-opcode rule: skipped (R131), or a fault under `unknown_opcode_halts` (R132). -/
def unknownOpcode (p : Config.Params) (w : Word) (s : State) : State :=
  if p.unknownOpcodeHalts then s.raise .unimplementedOpcode (some w) else s.advance

/-- The end of a step whose execution left `t`: a raised fault is returned and no tick applied (R262, R263);
otherwise the tick phase, then the status `st` (R130). -/
def conclude (p : Config.Params) (st : StepStatus) (t : State) : State :=
  match t.fault with
  | some r => t.returning (.fault r)
  | none => (t.tick (t.ticks p)).returning st

/-- Decode, dispatch and execute the fetched word `w` (R126, R127, R131). -/
def runWord (p : Config.Params) (w : Word) (s : State) : Out :=
  match decode w with
  | .error _ => .next (conclude p (.reported s.pc w) (unknownOpcode p w s))
  | .ok i =>
    match execUnder p i s with
    | .next t => .next (conclude p .ok t)
    | .fault f => .fault f
    | .refused r => .refused r

/-- One step under the parameters `p`, its conditions in R267's order. -/
def stepUnder (p : Config.Params) (s : State) : Out :=
  match s.fault with
  | some r => .next (s.returning (.halted r))
  | none =>
    if Config.lastFetch < s.pc.toNat then .next (conclude p .ok (s.raise .pcOutOfRange none))
    else runWord p s.fetch s

/-- Makes the next step fetch: the latch clear, and `pc` a fetchable address, PROG_START where it is not one. -/
def State.readyToFetch (s : State) : State :=
  { s with
    fault := none
    pc := if s.pc.toNat ≤ Config.lastFetch then s.pc else BitVec.ofNat 16 Config.progStart }

/-- Stores a word's two bytes at `pc`, big-endian (R62). -/
def State.placeWord (s : State) (w : Word) : State :=
  s.setMem (s.mem.writeSeq s.pc.toNat [hiByte w, loByte w])

end Sys2Proof.Machine
end

