-- ==== Sys2Proof/Machine/Step.lean ====
section
/-! DEFINITION. The step of this hardware, and the placing of one instruction where it fetches. -/

namespace Sys2Proof.Machine

/-- The host operation `step` under this hardware's parameters (spec 40_dispatch.md R120, 00_scope.md R10). -/
def step (s : State) : Host.Outcome State Fault Refusal := stepUnder Config.params s

/-- `s` with the word `w` (of `nbits` bits, the bits above them zero) stored where the next step fetches. In a
state that could not fetch (halted, or `pc > 0xFFE`) the latch is cleared and `pc` set to 0x200 as well. -/
def State.withFetchWord (s : State) (nbits w : Nat) : State :=
  s.readyToFetch.placeWord (BitVec.ofNat 16 (w % 2 ^ nbits))

end Sys2Proof.Machine
end

