-- ==== Sys2Proof/Machine/HostOps.lean ====
section
/-! DEFINITION. The host operations, the block's interface (spec 40_dispatch.md R137 to R145): each is one
indivisible transaction between steps. `step` is `Machine.step`; here the host names its two inputs. -/

namespace Sys2Proof.Machine

/-- What `load` returns (R140). -/
inductive LoadResult where
  | ok
  /-- `RomTooLarge`, with the image's length (R260). -/
  | romTooLarge (len : Nat)
  deriving DecidableEq, Repr

/-- The values `reset` leaves in the elements marked D17 (R39): zeros, or a free draw. -/
def resetDraw (p : Config.Params) (n : Nat) : Config.ResetDraw :=
  match p.resetRegs with
  | .zero => Config.ResetDraw.zero
  | .arbitrary => Config.freeReset n

/-- `reset` (R139): every state element to its reset value; only this clears the latch. The host's inputs are
not the core's: they go on, so a run after a reset meets fresh ones (log 12). -/
def hostReset (p : Config.Params) (s : State) : State :=
  { State.resetFrom (resetDraw p s.inputNo) with inputs := s.inputs, inputNo := s.inputNo + 1 }

/-- `load(b)` (R140): a raw overwrite from 0x200 on, or `RomTooLarge` and no change. -/
def hostLoad (b : List Byte) (s : State) : State × LoadResult :=
  if Config.progCapacity < b.length then (s, .romTooLarge b.length)
  else (s.setMem (s.mem.writeSeq Config.progStart b), .ok)

/-- `set_keys(k)` (R141): the whole latch at once, also while halted. -/
def hostSetKeys (k : Vector Bool 16) (s : State) : State := { s with keys := k }

/-- `step(ticks, rnd)` (R121), under the parameters `p`. -/
def hostStep (p : Config.Params) (i : StepInput) (s : State) : Out :=
  stepUnder p { s with inputs := i :: s.inputs }

/-- A pixel as the byte `read_pixels` gives for it: 0 or 1 (R142). -/
def pixelByte (b : Bool) : Byte := if b then 1 else 0

/-- `read_pixels()` (R142): 2048 bytes, row-major. -/
def readPixels (s : State) : List Byte := s.fb.toList.flatMap fun row => row.toList.map pixelByte

/-- `read_delay_timer()` (R143). -/
def readDelayTimer (s : State) : Byte := s.DT

/-- `read_sound_timer()` (R144). -/
def readSoundTimer (s : State) : Byte := s.ST

/-- The transactions (R138). -/
inductive HostOp where
  | reset
  | load (b : List Byte)
  | setKeys (k : Vector Bool 16)
  | step (i : StepInput)
  | readPixels
  | readDelayTimer
  | readSoundTimer
  deriving DecidableEq, Repr

/-- The output of a transaction (R138). -/
inductive HostReply where
  | done
  | loaded (r : LoadResult)
  /-- The status a step returned (R122). -/
  | stepped (st : Option StepStatus)
  | pixels (p : List Byte)
  | timer (t : Byte)
  deriving DecidableEq, Repr

/-- One transaction: the state after it and its output (R138). -/
def hostDo (p : Config.Params) (op : HostOp) (s : State) : Host.Outcome (State × HostReply) Fault Refusal :=
  match op with
  | .reset => .next (hostReset p s, .done)
  | .load b => .next ((hostLoad b s).1, .loaded (hostLoad b s).2)
  | .setKeys k => .next (hostSetKeys k s, .done)
  | .step i =>
    match hostStep p i s with
    | .next t => .next (t, .stepped t.status)
    | .fault f => .fault f
    | .refused r => .refused r
  | .readPixels => .next (s, .pixels (readPixels s))
  | .readDelayTimer => .next (s, .timer (readDelayTimer s))
  | .readSoundTimer => .next (s, .timer (readSoundTimer s))

end Sys2Proof.Machine
end

