-- ==== Sys2Proof/Safety.lean ====
section
/-! DEFINITION. The terms the statements are written in: what stays unchanged between two states, which pixels a
sprite covers, which instructions write what, and the invariant of the machine. Nothing here is part of the
machine. -/

namespace Sys2Proof

/-! ## Which instructions write what -/

/-- The instructions that write `VF` as a side effect (R23). -/
def Instr.writesFlag : Instr → Bool
  | .addReg _ _ | .subReg _ _ | .shr _ _ | .subnReg _ _ | .shl _ _ | .drw _ _ _ => true
  | _ => false

/-- Whether an instruction names `V[r]` as its destination; `FX65` names `V0 .. V(cnt-1)` (R206). -/
def Instr.names (p : Config.Params) (r : Reg) : Instr → Bool
  | .ldImm x _ | .addImm x _ | .rnd x _ => x == r
  | .ldReg x _ | .orReg x _ | .andReg x _ | .xorReg x _ => x == r
  | .addReg x _ | .subReg x _ | .shr x _ | .subnReg x _ | .shl x _ => x == r
  | .ldVDt x | .ldVK x => x == r
  | .ldVMem x => r.val < (if p.dumpInclusive then x.val + 1 else x.val)
  | _ => false

/-- The instructions that can raise a fault (R261). -/
def Instr.canFault : Instr → Bool
  | .ret | .call _ | .drw _ _ _ | .ldB _ | .ldMemV _ | .ldVMem _ | .skp _ | .sknp _ => true
  | _ => false

/-- The instructions that can set `pc` to a value other than `pc + 2` (R150). -/
def Instr.redirects : Instr → Bool
  | .ret | .jp _ | .call _ | .seImm _ _ | .sneImm _ _ | .seReg _ _ | .sneReg _ _ | .jpV0 _
  | .skp _ | .sknp _ | .ldVK _ => true
  | _ => false

/-- The instruction's row in R94's table, counted from 0. -/
def Instr.rowNo : Instr → Nat
  | .cls => 0 | .ret => 1 | .jp _ => 2 | .call _ => 3 | .seImm _ _ => 4 | .sneImm _ _ => 5
  | .seReg _ _ => 6 | .ldImm _ _ => 7 | .addImm _ _ => 8 | .ldReg _ _ => 9 | .orReg _ _ => 10
  | .andReg _ _ => 11 | .xorReg _ _ => 12 | .addReg _ _ => 13 | .subReg _ _ => 14 | .shr _ _ => 15
  | .subnReg _ _ => 16 | .shl _ _ => 17 | .sneReg _ _ => 18 | .ldI _ => 19 | .jpV0 _ => 20
  | .rnd _ _ => 21 | .drw _ _ _ => 22 | .skp _ => 23 | .sknp _ => 24 | .ldVDt _ => 25 | .ldVK _ => 26
  | .ldDtV _ => 27 | .ldStV _ => 28 | .addI _ => 29 | .ldF _ => 30 | .ldB _ => 31 | .ldMemV _ => 32
  | .ldVMem _ => 33

end Sys2Proof

namespace Sys2Proof.Machine

/-! ## Frames -/

/-- Every byte of memory reads as before. -/
def MemSame (s t : State) : Prop := ∀ a, t.mem.read a = s.mem.read a

/-- Every byte of memory outside `a .. a+n-1` reads as before. -/
def MemSameOutside (s t : State) (a n : Nat) : Prop :=
  ∀ b, b < a ∨ a + n ≤ b → t.mem.read b = s.mem.read b

/-- Every general register not in `ws` is as before. -/
def RegsSameBut (s t : State) (ws : List Reg) : Prop := ∀ r, r ∉ ws → t.reg r = s.reg r

/-- The call stack is as before: its entries and its pointer. -/
def StackSame (s t : State) : Prop := t.stack = s.stack ∧ t.sp = s.sp

/-- Both timers are as before. -/
def TimersSame (s t : State) : Prop := t.DT = s.DT ∧ t.ST = s.ST

/-- Every pixel is as before. -/
def ScreenSame (s t : State) : Prop := ∀ x y, pixel t.fb x y = pixel s.fb x y

/-- The input latch, the fault latch, and the model's own fields (the status and the inputs) are as before. -/
def HostSideSame (s t : State) : Prop :=
  t.keys = s.keys ∧ t.fault = s.fault ∧ t.status = s.status ∧ t.inputs = s.inputs ∧ t.inputNo = s.inputNo

/-- All but the general registers and `pc` is as before. -/
def RestSame (s t : State) : Prop :=
  t.I = s.I ∧ MemSame s t ∧ StackSame s t ∧ TimersSame s t ∧ ScreenSame s t ∧ HostSideSame s t

/-- Only the registers `ws` may have changed, and `pc` has advanced by 2. -/
def WritesOnly (s t : State) (ws : List Reg) : Prop :=
  RegsSameBut s t ws ∧ t.pc = s.pc + 2 ∧ RestSame s t

/-- Nothing but `pc` has changed. -/
def OnlyPc (s t : State) : Prop := RegsSameBut s t [] ∧ RestSame s t

/-- Every element of the spec's state tuple but the fault latch is as before (R262). -/
def SameCore (s t : State) : Prop :=
  t.mem = s.mem ∧ t.V = s.V ∧ t.I = s.I ∧ t.pc = s.pc ∧ t.stack = s.stack ∧ t.sp = s.sp ∧
  t.DT = s.DT ∧ t.ST = s.ST ∧ t.fb = s.fb ∧ t.keys = s.keys

/-- `t` is `s` with the latch set to a fault of instruction `i` (R262, R263): nothing else has changed. -/
def FaultedAt (s t : State) (i : Instr) (cause : FaultCause) : Prop :=
  SameCore s t ∧ t.fault = some { cause := cause, pc := s.pc, word := some (encode i) } ∧
  t.status = s.status ∧ t.inputs = s.inputs ∧ t.inputNo = s.inputNo

/-! ## Sprites (R222 to R225) -/

/-- Whether the sprite of `n` rows at `I`, drawn from column `x0` and row `y0`, has a set bit over the pixel
`(px, py)`: some row `r` and column `c` with bit `7 - c` of `mem[I + r]` set land there. -/
def covers (s : State) (x0 y0 n : Nat) (px : Fin 64) (py : Fin 32) : Bool :=
  (List.range n).any fun r => (List.range 8).any fun c =>
    (s.mem.byteAt (s.I.toNat + r)).getLsbD (7 - c) && px.val == (x0 + c) % 64 && py.val == (y0 + r) % 32

/-! ## The invariant -/

/-- The condition a fault record reports holds in `s` (R260): faults are precise, so what was wrong still is. -/
def FaultRecord.holdsIn (r : FaultRecord) (s : State) : Prop :=
  match r.cause with
  | .stackOverflow => s.sp = 16
  | .stackUnderflow => s.sp = 0
  | .unimplementedOpcode => True
  | .pcOutOfRange => Config.lastFetch < s.pc.toNat ∧ r.word = none
  | .memoryOutOfRange a => a = max s.I.toNat Config.memSize
  | .keyIndexOutOfRange v => 16 ≤ v.toNat

/-- The invariant every step keeps. -/
structure Inv (s : State) : Prop where
  /-- Memory is in its canonical form. -/
  mem_wf : s.mem.wf = true
  /-- No value written to `pc` exceeds 0x10FE, so `pc` never wraps (R26). -/
  pc_le : s.pc.toNat ≤ 0x10FE
  /-- Every valid return address is some `call_address + 2`, at most 0x1000 (R151, R153). -/
  stack_le : ∀ j : Fin 16, j.val < s.sp.val → 2 ≤ s.stack[j].toNat ∧ s.stack[j].toNat ≤ 0x1000
  /-- A latched fault was raised at this `pc` (R262, R263). -/
  fault_pc : ∀ r, s.fault = some r → r.pc = s.pc
  /-- A latched fault's condition holds (R260, R262). -/
  fault_holds : ∀ r, s.fault = some r → r.holdsIn s

end Sys2Proof.Machine
end

