-- ==== Sys2Proof/Certificates/Slice0/Obligations.lean ====
section
/-! DEFINITION. The statements for the provers. Each says which rule of the spec it formalises. -/

open Sys2Proof Sys2Proof.Machine

/-! ## Encoding (30_encoding.md) -/

/-- Decoding an instruction's encoding gives the instruction back, with every operand at every value its field
admits, as a word and as bytes in front of any others (R91, R94, R102). -/
def Obligations.DecodeOfEncodeIsTheInstruction : Prop :=
  ∀ i : Instr, decode (encode i) = .ok i ∧
    ∀ rest, decodeBytes (encodeBytes i ++ rest) = .ok (i, rest)

/-- A word that decodes is its instruction's encoding: no word has two readings, no bit is dropped (R96, R97). -/
def Obligations.EncodeOfDecodeIsTheWord : Prop :=
  ∀ (w : Word) (i : Instr), decode w = .ok i → encode i = w

/-- Strict decoding: a word is an instruction exactly when a row of R94 matches it with the full mask (R97). -/
def Obligations.DecodeAcceptsExactlyTheOpcodeMap : Prop :=
  ∀ w : Word, (∃ i, decode w = .ok i) ↔ ∃ r ∈ opcodeMap, r.selects w = true

/-- No two rows match one word, so dispatch does not depend on the order of
the rows (the spec's own derivation in R95). -/
def Obligations.NoTwoOpcodeRowsSelectOneWord : Prop :=
  ∀ (w : Word), ∀ r ∈ opcodeMap, ∀ r' ∈ opcodeMap, r.selects w = true → r'.selects w = true → r = r'

/-- An instruction's encoding lies in the instruction's own row of the opcode map (R94). -/
def Obligations.EveryInstructionEncodesInItsRow : Prop :=
  ∀ i : Instr, ∃ r, opcodeMap[i.rowNo]? = some r ∧ r.selects (encode i) = true

/-- The unknown words, space by space as R98 lists them. -/
def Obligations.UnknownWordsLieInTheirSpaces : Prop :=
  ∀ w : Word,
    (decode w = .error (.unknownOpcode .sys w) ↔ bits w 15 12 = 0x0 ∧ w ≠ 0x00E0 ∧ w ≠ 0x00EE) ∧
    (decode w = .error (.unknownOpcode .five w) ↔ bits w 15 12 = 0x5 ∧ bits w 3 0 ≠ 0) ∧
    (decode w = .error (.unknownOpcode .eight w) ↔
      bits w 15 12 = 0x8 ∧ bits w 3 0 ∈ [0x8, 0x9, 0xA, 0xB, 0xC, 0xD, 0xF]) ∧
    (decode w = .error (.unknownOpcode .nine w) ↔ bits w 15 12 = 0x9 ∧ bits w 3 0 ≠ 0) ∧
    (decode w = .error (.unknownOpcode .keys w) ↔ bits w 15 12 = 0xE ∧ bits w 7 0 ∉ [0x9E, 0xA1]) ∧
    (decode w = .error (.unknownOpcode .misc w) ↔
      bits w 15 12 = 0xF ∧ bits w 7 0 ∉ [0x07, 0x0A, 0x15, 0x18, 0x1E, 0x29, 0x33, 0x55, 0x65])

/-- Words the spec writes out, one or more a family, and the instructions they stand for (95_test_vectors.md). -/
def Obligations.SpecExampleWordsDecode : Prop :=
  decode 0x00E0 = .ok .cls ∧ decode 0x2210 = .ok (.call 0x210) ∧ decode 0x4205 = .ok (.sneImm 2 0x05) ∧
  decode 0x8124 = .ok (.addReg 1 2) ∧ decode 0x812E = .ok (.shl 1 2) ∧ decode 0xBFFF = .ok (.jpV0 0xFFF) ∧
  decode 0xD125 = .ok (.drw 1 2 5) ∧ decode 0xE5A1 = .ok (.sknp 5) ∧ decode 0xF00A = .ok (.ldVK 0) ∧
  decode 0xF129 = .ok (.ldF 1) ∧ decode 0xF265 = .ok (.ldVMem 2) ∧
  decode 0x5341 = .error (.unknownOpcode .five 0x5341) ∧ decode 0x8128 = .error (.unknownOpcode .eight 0x8128)

/-! ## The step (40_dispatch.md, 60_exceptions.md) -/

/-- A step of a running core whose fetched word decodes to `i` is `exec i`, followed by the tick phase if `exec`
raised no fault, and by nothing if it did; then the status is returned and the step's inputs are spent. -/
def Obligations.StepRunsTheDecodedInstruction : Prop :=
  ∀ (s t : State) (i : Instr), s.fault = none → s.pc.toNat ≤ 0xFFE → decode s.fetch = .ok i →
    exec i s = .next t →
    (t.fault = none → step s = .next { t with
      DT := tickTimer (t.ticks Config.params) t.DT, ST := tickTimer (t.ticks Config.params) t.ST
      status := some .ok, inputs := t.inputs.tail, inputNo := t.inputNo + 1 }) ∧
    ∀ r, t.fault = some r → step s = .next { t with
      status := some (.fault r), inputs := t.inputs.tail, inputNo := t.inputNo + 1 }

/-- Under the defaults of R10, the parameterised execution is `exec`. -/
def Obligations.DefaultParametersGiveExec : Prop :=
  ∀ (i : Instr) (s : State), execUnder Config.params i s = exec i s

/-- A step always answers a next state and returns exactly one status: `Ok` or `Reported` if the core keeps
running, `Fault` if this step latched a fault, `Halted` if the core was halted (R122). -/
def Obligations.EveryStepReturnsOneStatus : Prop :=
  ∀ (p : Config.Params) (s : State), ∃ t, stepUnder p s = .next t ∧
    ((t.status = some .ok ∧ s.fault = none ∧ t.fault = none ∧ ∃ i, decode s.fetch = .ok i) ∨
     (t.status = some (.reported s.pc s.fetch) ∧ s.fault = none ∧ t.fault = none ∧
       ∀ i, decode s.fetch ≠ .ok i) ∨
     (∃ r, t.status = some (.fault r) ∧ s.fault = none ∧ t.fault = some r) ∨
     (∃ r, t.status = some (.halted r) ∧ s.fault = some r ∧ t.fault = some r))

/-- A halted core's step changes no state, applies no tick and returns `Halted(fault)` (R123). -/
def Obligations.HaltedStepChangesNothing : Prop :=
  ∀ (p : Config.Params) (s : State) (r : FaultRecord), s.fault = some r →
    ∃ t, stepUnder p s = .next t ∧ SameCore s t ∧ t.fault = some r ∧ t.status = some (.halted r)

/-- A fetch with `pc > 0xFFE` raises `PcOutOfRange`, records no word, and changes nothing else (R124). -/
def Obligations.FetchOutOfRangeFaults : Prop :=
  ∀ (p : Config.Params) (s : State), s.fault = none → 0xFFE < s.pc.toNat →
    ∃ t, stepUnder p s = .next t ∧ SameCore s t ∧
      t.fault = some { cause := .pcOutOfRange, pc := s.pc, word := none } ∧
      t.status = some (.fault { cause := .pcOutOfRange, pc := s.pc, word := none })

/-- The fetched word is the two bytes at `pc`, the byte at the lower address in bits 15..8 (R62, R125). -/
def Obligations.FetchIsBigEndian : Prop :=
  ∀ s : State, s.pc.toNat ≤ 0xFFE → ∃ hi lo,
    s.mem.read s.pc.toNat = some hi ∧ s.mem.read (s.pc.toNat + 1) = some lo ∧
    s.fetch.toNat = hi.toNat * 256 + lo.toNat

/-- An unknown word is reported and skipped: `pc + 2`, the timers tick, nothing else changes, no fault (R131). -/
def Obligations.UnknownOpcodeIsReportedAndSkipped : Prop :=
  ∀ (s : State) (e : Reject), s.fault = none → s.pc.toNat ≤ 0xFFE → decode s.fetch = .error e →
    ∃ t, step s = .next t ∧ t.status = some (.reported s.pc s.fetch) ∧ t.fault = none ∧
      t.pc.toNat = s.pc.toNat + 2 ∧ t.V = s.V ∧ t.I = s.I ∧ t.mem = s.mem ∧ StackSame s t ∧ t.fb = s.fb ∧
      t.keys = s.keys ∧ t.DT.toNat = s.DT.toNat - s.ticks Config.params ∧
      t.ST.toNat = s.ST.toNat - s.ticks Config.params

/-- Under `unknown_opcode_halts` an unknown word faults: no state changes, no tick, and the core halts (R132). -/
def Obligations.UnknownOpcodeHaltsUnderTheHaltPolicy : Prop :=
  ∀ (p : Config.Params) (s : State) (e : Reject), p.unknownOpcodeHalts = true → s.fault = none →
    s.pc.toNat ≤ 0xFFE → decode s.fetch = .error e →
    ∃ t, stepUnder p s = .next t ∧ SameCore s t ∧
      t.fault = some { cause := .unimplementedOpcode, pc := s.pc, word := some s.fetch } ∧
      t.status = some (.fault { cause := .unimplementedOpcode, pc := s.pc, word := some s.fetch })

/-- Faults are precise: a step that raises one changes nothing but the latch, applies no tick, records the `pc` of
the step and the word it fetched, and returns `Fault` (R262, R263). -/
def Obligations.FaultsArePrecise : Prop :=
  ∀ (p : Config.Params) (s t : State) (r : FaultRecord), stepUnder p s = .next t → s.fault = none →
    t.fault = some r →
    SameCore s t ∧ t.status = some (.fault r) ∧ r.pc = s.pc ∧ r.holdsIn s ∧
    (r.word = some s.fetch ∨ r.cause = .pcOutOfRange)

/-- An instruction outside R261's list of eight always completes: it answers a next state and raises nothing (the
spec's own derivation in R261). -/
def Obligations.OnlyEightInstructionsCanFault : Prop :=
  ∀ (p : Config.Params) (i : Instr) (s : State), i.canFault = false →
    ∃ t, execUnder p i s = .next t ∧ t.fault = s.fault

/-- The tick phase: `k` ticks lower each timer by `k` but never below 0, change nothing else, and are the same as
`k` single ticks one after another (R248). -/
def Obligations.TicksSaturateAndCompose : Prop :=
  ∀ (s : State) (k : Nat),
    (s.tick k).DT.toNat = s.DT.toNat - k ∧ (s.tick k).ST.toNat = s.ST.toNat - k ∧
    s.tick k = (fun u => u.tick 1)^[k] s ∧
    (s.tick k).mem = s.mem ∧ (s.tick k).V = s.V ∧ (s.tick k).I = s.I ∧ (s.tick k).pc = s.pc ∧
    StackSame s (s.tick k) ∧ (s.tick k).fb = s.fb ∧ HostSideSame s (s.tick k)

/-- The tick phase follows execution: a timer loaded in a step is lowered by that step's ticks, and a read of `DT`
sees it before them (R130, R243, R245, R246). -/
def Obligations.TicksComeAfterExecution : Prop :=
  ∀ (s : State) (x : Reg), s.fault = none → s.pc.toNat ≤ 0xFFE →
    (decode s.fetch = .ok (.ldDtV x) → ∃ t, step s = .next t ∧
      t.DT.toNat = (s.reg x).toNat - s.ticks Config.params ∧ t.ST.toNat = s.ST.toNat - s.ticks Config.params) ∧
    (decode s.fetch = .ok (.ldStV x) → ∃ t, step s = .next t ∧
      t.ST.toNat = (s.reg x).toNat - s.ticks Config.params ∧ t.DT.toNat = s.DT.toNat - s.ticks Config.params) ∧
    (decode s.fetch = .ok (.ldVDt x) → ∃ t, step s = .next t ∧
      t.reg x = s.DT ∧ t.DT.toNat = s.DT.toNat - s.ticks Config.params)

/-- A step's tick count is within `max_ticks_per_step`, and every count within it is some host's choice (R121,
R249; the minimum with a count beyond the bound is the model's choice, log 4). -/
def Obligations.TicksStayWithinTheBound : Prop :=
  ∀ (p : Config.Params) (s : State) (m : Nat), p.maxTicksPerStep = some m →
    s.ticks p ≤ m ∧ ∀ k ≤ m, ∀ b rest, State.ticks p { s with inputs := ⟨k, b⟩ :: rest } = k

/-! ## Reset and the host operations (40_dispatch.md, 70_reset_and_hazards.md) -/

/-- The state after reset, element by element as R39's table has it; `mem`, `pc` and `fault` under under every
parameter; the rest, which is the spec's decision D17 (log 6), under `reset_regs = zero`. -/
def Obligations.ResetGivesTheTablesValues : Prop :=
  (∀ (p : Config.Params) (s : State),
    (∀ a, (hostReset p s).mem.read a =
      if a < 0x50 then Config.font[a]? else if a < 0x1000 then some 0 else none) ∧
    (hostReset p s).pc = 0x200 ∧ (hostReset p s).fault = none ∧
    (p.resetRegs = .zero → SameCore State.reset (hostReset p s))) ∧
  (∀ x, State.reset.reg x = 0) ∧ State.reset.I = 0 ∧ State.reset.pc = 0x200 ∧ State.reset.sp = 0 ∧
  (∀ j : Fin 16, State.reset.stack[j] = 0) ∧ State.reset.DT = 0 ∧ State.reset.ST = 0 ∧
  (∀ x y, pixel State.reset.fb x y = false) ∧ (∀ k : Fin 16, State.reset.keys[k] = false) ∧
  State.reset.fault = none

/-- `load` copies the image to 0x200 on and changes nothing else, or, past 3584 bytes, returns `RomTooLarge` and
changes nothing at all (R140). -/
def Obligations.LoadPlacesTheImageOrRefuses : Prop :=
  ∀ (b : List Byte) (s : State),
    (b.length ≤ 3584 →
      (hostLoad b s).2 = .ok ∧
      (∀ k (h : k < b.length), (hostLoad b s).1.mem.read (0x200 + k) = some b[k]) ∧
      MemSameOutside s (hostLoad b s).1 0x200 b.length ∧
      RegsSameBut s (hostLoad b s).1 [] ∧ (hostLoad b s).1.I = s.I ∧ (hostLoad b s).1.pc = s.pc ∧
      StackSame s (hostLoad b s).1 ∧ TimersSame s (hostLoad b s).1 ∧ ScreenSame s (hostLoad b s).1 ∧
      HostSideSame s (hostLoad b s).1) ∧
    (3584 < b.length → hostLoad b s = (s, .romTooLarge b.length))

/-- `set_keys` replaces the whole latch and nothing else; a timer read returns the timer (R141, R143, R144). -/
def Obligations.KeysAreReplacedWholesale : Prop :=
  ∀ (p : Config.Params) (s : State) (k : Vector Bool 16),
    (∃ t, hostDo p (.setKeys k) s = .next (t, .done) ∧ t = { s with keys := k }) ∧
    hostDo p .readDelayTimer s = .next (s, .timer s.DT) ∧
    hostDo p .readSoundTimer s = .next (s, .timer s.ST)

/-- `read_pixels` returns 2048 bytes, pixel `(x, y)` at index `y * 64 + x`, each 0 or 1, and changes no state
(R142). -/
def Obligations.ReadPixelsIsRowMajor : Prop :=
  ∀ (p : Config.Params) (s : State), ∃ bytes, hostDo p .readPixels s = .next (s, .pixels bytes) ∧
    bytes.length = 2048 ∧
    ∀ (x : Fin 64) (y : Fin 32), bytes[y.val * 64 + x.val]? = some (if pixel s.fb x y then 1 else 0)

/-- A word placed for the next step is the word the next step fetches, the core is running, and every byte outside
the word's two reads as before. -/
def Obligations.PlacedWordIsFetched : Prop :=
  ∀ (s : State) (w : Word),
    (s.withFetchWord 16 w.toNat).fetch = w ∧ (s.withFetchWord 16 w.toNat).fault = none ∧
    (s.withFetchWord 16 w.toNat).pc.toNat ≤ 0xFFE ∧
    MemSameOutside s (s.withFetchWord 16 w.toNat) (s.withFetchWord 16 w.toNat).pc.toNat 2 ∧
    (s.fault = none → s.pc.toNat ≤ 0xFFE → (s.withFetchWord 16 w.toNat).pc = s.pc)

/-! ## Control flow (41_control_flow.md) -/

/-- CALL pushes the address after the call and jumps, and with a full stack raises StackOverflow, precisely; in
the record at this level the word is the instruction's encoding (R153; log 7). -/
def Obligations.CallPushesAndJumpsOrOverflows : Prop :=
  ∀ (s : State) (nnn : Addr),
    (∀ _ : s.sp.val < 16, ∃ t, exec (.call nnn) s = .next t ∧
      t.stack[s.sp.val] = s.pc + 2 ∧ t.sp.val = s.sp.val + 1 ∧ t.pc.toNat = nnn.toNat ∧
      (∀ j : Fin 16, j.val ≠ s.sp.val → t.stack[j] = s.stack[j]) ∧
      RegsSameBut s t [] ∧ t.I = s.I ∧ MemSame s t ∧ TimersSame s t ∧ ScreenSame s t ∧ HostSideSame s t) ∧
    (s.sp.val = 16 → ∃ t, exec (.call nnn) s = .next t ∧ FaultedAt s t (.call nnn) .stackOverflow)

/-- RET pops the return address into `pc`, the popped entry keeping its value, and on an empty stack raises
StackUnderflow, precisely (R151). -/
def Obligations.RetPopsAndJumpsOrUnderflows : Prop :=
  ∀ s : State,
    (∀ _ : 0 < s.sp.val, ∃ t, exec .ret s = .next t ∧
      t.pc = s.stack[s.sp.val - 1] ∧ t.sp.val = s.sp.val - 1 ∧ t.stack = s.stack ∧
      RegsSameBut s t [] ∧ t.I = s.I ∧ MemSame s t ∧ TimersSame s t ∧ ScreenSame s t ∧ HostSideSame s t) ∧
    (s.sp.val = 0 → ∃ t, exec .ret s = .next t ∧ FaultedAt s t .ret .stackUnderflow)

/-- Call and return are inverses: after a call, and anything that leaves the call's stack entry and `sp` as it
found them, RET continues after the call with `sp` as it was before it (the spec's own derivation in R161). -/
def Obligations.CallThenReturnRestoresPcAndSp : Prop :=
  ∀ (s t u : State) (nnn : Addr), exec (.call nnn) s = .next t → t.fault = none →
    u.sp = t.sp → (∀ j : Fin 16, j.val < t.sp.val → u.stack[j] = t.stack[j]) →
    ∃ v, exec .ret u = .next v ∧ v.pc = s.pc + 2 ∧ v.sp = s.sp ∧ v.fault = u.fault

/-- JP sets `pc` to `nnn`, and JP V0 to the exact sum `nnn + V0`; neither changes anything else (R152, R160). -/
def Obligations.JumpsSetPcExactly : Prop :=
  ∀ (s : State) (nnn : Addr),
    (∃ t, exec (.jp nnn) s = .next t ∧ t.pc.toNat = nnn.toNat ∧ OnlyPc s t) ∧
    (∃ t, exec (.jpV0 nnn) s = .next t ∧ t.pc.toNat = nnn.toNat + (s.reg 0).toNat ∧ OnlyPc s t)

/-- The four comparing skips: `pc + 4` when the condition holds, `pc + 2` when it does not, and nothing else
changes (R154 to R158). -/
def Obligations.SkipsCompareAndAdvance : Prop :=
  ∀ (s : State) (x y : Reg) (kk : Byte),
    (∃ t, exec (.seImm x kk) s = .next t ∧ OnlyPc s t ∧
      t.pc = if (s.reg x).toNat = kk.toNat then s.pc + 4 else s.pc + 2) ∧
    (∃ t, exec (.sneImm x kk) s = .next t ∧ OnlyPc s t ∧
      t.pc = if (s.reg x).toNat = kk.toNat then s.pc + 2 else s.pc + 4) ∧
    (∃ t, exec (.seReg x y) s = .next t ∧ OnlyPc s t ∧
      t.pc = if (s.reg x).toNat = (s.reg y).toNat then s.pc + 4 else s.pc + 2) ∧
    (∃ t, exec (.sneReg x y) s = .next t ∧ OnlyPc s t ∧
      t.pc = if (s.reg x).toNat = (s.reg y).toNat then s.pc + 2 else s.pc + 4)

/-! ## ALU (42_alu.md) -/

/-- LD Vx, kk; ADD Vx, kk (mod 256, no flag); LD Vx, Vy: only `Vx` changes (R171 to R173). -/
def Obligations.ImmediatesAndCopyWriteOnlyVx : Prop :=
  ∀ (s : State) (x y : Reg) (kk : Byte),
    (∃ t, exec (.ldImm x kk) s = .next t ∧ t.reg x = kk ∧ WritesOnly s t [x]) ∧
    (∃ t, exec (.addImm x kk) s = .next t ∧
      (t.reg x).toNat = ((s.reg x).toNat + kk.toNat) % 256 ∧ WritesOnly s t [x]) ∧
    (∃ t, exec (.ldReg x y) s = .next t ∧ t.reg x = s.reg y ∧ WritesOnly s t [x])

/-- OR, AND, XOR, bit by bit: only `Vx` changes, `VF` only as `Vx` (R174 to R176). -/
def Obligations.LogicIsBitwiseAndLeavesVF : Prop :=
  ∀ (s : State) (x y : Reg),
    (∃ t, exec (.orReg x y) s = .next t ∧ WritesOnly s t [x] ∧
      ∀ b, (t.reg x).getLsbD b = ((s.reg x).getLsbD b || (s.reg y).getLsbD b)) ∧
    (∃ t, exec (.andReg x y) s = .next t ∧ WritesOnly s t [x] ∧
      ∀ b, (t.reg x).getLsbD b = ((s.reg x).getLsbD b && (s.reg y).getLsbD b)) ∧
    (∃ t, exec (.xorReg x y) s = .next t ∧ WritesOnly s t [x] ∧
      ∀ b, (t.reg x).getLsbD b = xor ((s.reg x).getLsbD b) ((s.reg y).getLsbD b))

/-- ADD Vx, Vy: `Vx` is the sum mod 256 and `VF` is 1 exactly on a sum above 255; with `x = F` the flag stays
(R177, R178). -/
def Obligations.AddWritesSumAndCarry : Prop :=
  ∀ (s : State) (x y : Reg), ∃ t, exec (.addReg x y) s = .next t ∧ WritesOnly s t [x, VF] ∧
    (t.reg VF).toNat = (if 255 < (s.reg x).toNat + (s.reg y).toNat then 1 else 0) ∧
    (x ≠ VF → (t.reg x).toNat = ((s.reg x).toNat + (s.reg y).toNat) % 256 ∧
      (t.reg x).toNat + 256 * (t.reg VF).toNat = (s.reg x).toNat + (s.reg y).toNat)

/-- SUB and SUBN: the difference mod 256, and `VF` 1 exactly when strictly greater, so equal operands give 0; with
`x = F` the flag stays (R177, R179, R181, C6). -/
def Obligations.SubtractsWriteDifferenceAndStrictFlag : Prop :=
  ∀ (s : State) (x y : Reg),
    (∃ t, exec (.subReg x y) s = .next t ∧ WritesOnly s t [x, VF] ∧
      (t.reg VF).toNat = (if (s.reg y).toNat < (s.reg x).toNat then 1 else 0) ∧
      (x ≠ VF → (t.reg x).toNat = ((s.reg x).toNat + 256 - (s.reg y).toNat) % 256)) ∧
    (∃ t, exec (.subnReg x y) s = .next t ∧ WritesOnly s t [x, VF] ∧
      (t.reg VF).toNat = (if (s.reg x).toNat < (s.reg y).toNat then 1 else 0) ∧
      (x ≠ VF → (t.reg x).toNat = ((s.reg y).toNat + 256 - (s.reg x).toNat) % 256))

/-- SHR and SHL of this hardware shift `Vx`, whatever `y` is; `VF` is the bit shifted out, and with `x = F` the
flag stays (R177, R180, R182 with the default `shift_source = vx`). -/
def Obligations.ShiftsMoveVxAndFlagTheLostBit : Prop :=
  ∀ (s : State) (x y : Reg),
    (∃ t, exec (.shr x y) s = .next t ∧ WritesOnly s t [x, VF] ∧
      (t.reg VF).toNat = (s.reg x).toNat % 2 ∧ (x ≠ VF → (t.reg x).toNat = (s.reg x).toNat / 2)) ∧
    (∃ t, exec (.shl x y) s = .next t ∧ WritesOnly s t [x, VF] ∧
      (t.reg VF).toNat = (s.reg x).toNat / 128 ∧ (x ≠ VF → (t.reg x).toNat = (s.reg x).toNat * 2 % 256))

/-- ADD and then SUB with the same `Vy` gives `Vx` its value back (the spec's own derivation in R184). -/
def Obligations.AddThenSubRestoresVx : Prop :=
  ∀ (s t : State) (x y : Reg), x ≠ VF → y ≠ VF → exec (.addReg x y) s = .next t → t.reg y = s.reg y →
    ∃ u, exec (.subReg x y) t = .next u ∧ u.reg x = s.reg x

/-- RND gives `Vx` the step's random byte, masked, for every byte the host may draw (R183). -/
def Obligations.RndMasksTheHostsByte : Prop :=
  ∀ (s : State) (x : Reg) (kk r : Byte) (k : Nat) (rest : List StepInput),
    (∃ t, exec (.rnd x kk) s = .next t ∧ t.reg x = s.rnd &&& kk ∧ WritesOnly s t [x]) ∧
    ∃ t, exec (.rnd x kk) { s with inputs := ⟨k, r⟩ :: rest } = .next t ∧ t.reg x = r &&& kk

/-! ## Index register and memory (43_index_memory.md) -/

/-- LD I, ADD I and LD F change `I` alone: `nnn`; the sum mod 65536, with no flag; `5·Vx` with no mask (R201 to
R203). -/
def Obligations.IndexInstructionsWriteOnlyI : Prop :=
  ∀ (s : State) (x : Reg) (nnn : Addr),
    (∃ t, exec (.ldI nnn) s = .next t ∧ t.I.toNat = nnn.toNat ∧ t.pc = s.pc + 2 ∧ RegsSameBut s t [] ∧
      MemSame s t ∧ StackSame s t ∧ TimersSame s t ∧ ScreenSame s t ∧ HostSideSame s t) ∧
    (∃ t, exec (.addI x) s = .next t ∧ t.I.toNat = (s.I.toNat + (s.reg x).toNat) % 65536 ∧
      t.pc = s.pc + 2 ∧ RegsSameBut s t [] ∧
      MemSame s t ∧ StackSame s t ∧ TimersSame s t ∧ ScreenSame s t ∧ HostSideSame s t) ∧
    (∃ t, exec (.ldF x) s = .next t ∧ t.I.toNat = (s.reg x).toNat * 5 ∧ t.pc = s.pc + 2 ∧
      RegsSameBut s t [] ∧
      MemSame s t ∧ StackSame s t ∧ TimersSame s t ∧ ScreenSame s t ∧ HostSideSame s t)

/-- LD B stores hundreds, tens and ones at `I`, `I+1`, `I+2` and nothing anywhere else, `I` unchanged; where
`I + 2` reaches 0x1000 it raises MemoryOutOfRange and stores nothing (R204). -/
def Obligations.BcdStoresThreeDigitsOrFaults : Prop :=
  ∀ (s : State) (x : Reg),
    (s.I.toNat + 2 < 0x1000 → ∃ t, exec (.ldB x) s = .next t ∧
      t.mem.read s.I.toNat = some (BitVec.ofNat 8 ((s.reg x).toNat / 100)) ∧
      t.mem.read (s.I.toNat + 1) = some (BitVec.ofNat 8 ((s.reg x).toNat / 10 % 10)) ∧
      t.mem.read (s.I.toNat + 2) = some (BitVec.ofNat 8 ((s.reg x).toNat % 10)) ∧
      MemSameOutside s t s.I.toNat 3 ∧ t.I = s.I ∧ t.pc = s.pc + 2 ∧ RegsSameBut s t [] ∧
      StackSame s t ∧ TimersSame s t ∧ ScreenSame s t ∧ HostSideSame s t) ∧
    (0x1000 ≤ s.I.toNat + 2 → ∃ t, exec (.ldB x) s = .next t ∧
      FaultedAt s t (.ldB x) (.memoryOutOfRange (max s.I.toNat 0x1000)))

/-- The register dump of this hardware stores `V0 .. V(x-1)` at `I` on, and nothing anywhere else; `I` is
unchanged, and `x = 0` stores nothing (R205 with the default `dump_inclusive = false`). -/
def Obligations.DumpStoresRegistersBelowVx : Prop :=
  ∀ (s : State) (x : Reg), (x = 0 ∨ s.I.toNat + x.val ≤ 0x1000) → ∃ t, exec (.ldMemV x) s = .next t ∧
    (∀ i : Reg, i < x → t.mem.read (s.I.toNat + i.val) = some (s.reg i)) ∧
    MemSameOutside s t s.I.toNat x.val ∧ t.I = s.I ∧ t.pc = s.pc + 2 ∧ RegsSameBut s t [] ∧
    StackSame s t ∧ TimersSame s t ∧ ScreenSame s t ∧ HostSideSame s t

/-- The register load of this hardware fills `V0 .. V(x-1)` from `I` on, and changes nothing else; `I` is
unchanged, and `x = 0` loads nothing (R206 with the default `dump_inclusive = false`). -/
def Obligations.LoadFillsRegistersBelowVx : Prop :=
  ∀ (s : State) (x : Reg), (x = 0 ∨ s.I.toNat + x.val ≤ 0x1000) → ∃ t, exec (.ldVMem x) s = .next t ∧
    (∀ i : Reg, i < x → s.mem.read (s.I.toNat + i.val) = some (t.reg i)) ∧
    (∀ i : Reg, x ≤ i → t.reg i = s.reg i) ∧ t.pc = s.pc + 2 ∧ RestSame s t

/-- A dump or a load whose range reaches 0x1000 raises MemoryOutOfRange with the lowest such address and changes
nothing else, under every parameter (R64, R205, R206). -/
def Obligations.BlockPastMemoryFaultsPrecisely : Prop :=
  ∀ (p : Config.Params) (s : State) (x : Reg),
    0 < blockCount p x → 0x1000 ≤ s.I.toNat + blockCount p x - 1 →
      (∃ t, execUnder p (.ldMemV x) s = .next t ∧
        FaultedAt s t (.ldMemV x) (.memoryOutOfRange (max s.I.toNat 0x1000))) ∧
      (∃ t, execUnder p (.ldVMem x) s = .next t ∧
        FaultedAt s t (.ldVMem x) (.memoryOutOfRange (max s.I.toNat 0x1000)))

/-- The other values of `shift_source` and `dump_inclusive`: the shifts take `Vy`, and the block operations reach
`Vx` itself (R180, R182, R205, R206). -/
def Obligations.OtherParametersShiftVyAndReachVx : Prop :=
  ∀ (p : Config.Params) (s : State) (x y : Reg),
    (p.shiftSource = .vy →
      (∃ t, execUnder p (.shr x y) s = .next t ∧ WritesOnly s t [x, VF] ∧
        (t.reg VF).toNat = (s.reg y).toNat % 2 ∧ (x ≠ VF → (t.reg x).toNat = (s.reg y).toNat / 2)) ∧
      (∃ t, execUnder p (.shl x y) s = .next t ∧ WritesOnly s t [x, VF] ∧
        (t.reg VF).toNat = (s.reg y).toNat / 128 ∧ (x ≠ VF → (t.reg x).toNat = (s.reg y).toNat * 2 % 256))) ∧
    (p.dumpInclusive = true → s.I.toNat + x.val < 0x1000 →
      (∃ t, execUnder p (.ldMemV x) s = .next t ∧
        (∀ i : Reg, i ≤ x → t.mem.read (s.I.toNat + i.val) = some (s.reg i)) ∧
        MemSameOutside s t s.I.toNat (x.val + 1) ∧ t.I = s.I ∧ t.pc = s.pc + 2 ∧ RegsSameBut s t [] ∧
        StackSame s t ∧ TimersSame s t ∧ ScreenSame s t ∧ HostSideSame s t) ∧
      (∃ t, execUnder p (.ldVMem x) s = .next t ∧
        (∀ i : Reg, i ≤ x → s.mem.read (s.I.toNat + i.val) = some (t.reg i)) ∧
        (∀ i : Reg, x < i → t.reg i = s.reg i) ∧ t.pc = s.pc + 2 ∧ RestSame s t))

/-- A dump, and a later load with the same `x`, the same `I` and the dumped bytes untouched, gives the moved
registers their values at the dump (the spec's own derivation in R207). -/
def Obligations.DumpThenLoadReproducesRegisters : Prop :=
  ∀ (p : Config.Params) (s t u v : State) (x : Reg),
    execUnder p (.ldMemV x) s = .next t → t.fault = none →
    u.I = s.I → (∀ k, k < blockCount p x → u.mem.read (s.I.toNat + k) = t.mem.read (s.I.toNat + k)) →
    execUnder p (.ldVMem x) u = .next v → v.fault = none →
    ∀ i : Reg, i.val < blockCount p x → v.reg i = s.reg i

/-- A store is seen by the next fetch: LD B into the two bytes after it makes its hundreds and tens the next
word (the spec's own derivation in R75 and R296). -/
def Obligations.StoresAreSeenByTheNextFetch : Prop :=
  ∀ (s : State) (x : Reg), s.I.toNat = s.pc.toNat + 2 → s.I.toNat + 2 < 0x1000 →
    ∃ t, exec (.ldB x) s = .next t ∧ t.pc.toNat = s.I.toNat ∧
      t.fetch.toNat = (s.reg x).toNat / 100 * 256 + (s.reg x).toNat / 10 % 10

/-! ## Display (44_display.md) -/

/-- CLS makes every pixel 0 and changes nothing else (R221). -/
def Obligations.ClearBlanksEveryPixel : Prop :=
  ∀ s : State, ∃ t, exec .cls s = .next t ∧ (∀ x y, pixel t.fb x y = false) ∧ t.pc = s.pc + 2 ∧
    RegsSameBut s t [] ∧ t.I = s.I ∧ MemSame s t ∧ StackSame s t ∧ TimersSame s t ∧ HostSideSame s t

/-- DRW toggles exactly the pixels under a set sprite bit, each wrapped on its own; `VF` is 1 exactly when one of
them was set before; nothing else changes. Where its rows reach 0x1000 it raises MemoryOutOfRange, precisely
(R222, R223). -/
def Obligations.DrawXorsTheCoveredPixelsOrFaults : Prop :=
  ∀ (s : State) (x y : Reg) (n : Fin 16),
    ((n = 0 ∨ s.I.toNat + n.val ≤ 0x1000) →
      ∃ t, exec (.drw x y n) s = .next t ∧
        (∀ px py, pixel t.fb px py =
          xor (pixel s.fb px py) (covers s (s.reg x).toNat (s.reg y).toNat n.val px py)) ∧
        (t.reg VF = 0 ∨ t.reg VF = 1) ∧
        (t.reg VF = 1 ↔ ∃ px py, covers s (s.reg x).toNat (s.reg y).toNat n.val px py = true ∧
          pixel s.fb px py = true) ∧
        RegsSameBut s t [VF] ∧ t.I = s.I ∧ t.pc = s.pc + 2 ∧ MemSame s t ∧ StackSame s t ∧
        TimersSame s t ∧ HostSideSame s t) ∧
    (0 < n.val → 0x1000 ≤ s.I.toNat + n.val - 1 → ∃ t, exec (.drw x y n) s = .next t ∧
      FaultedAt s t (.drw x y n) (.memoryOutOfRange (max s.I.toNat 0x1000)))

/-- Drawing the same sprite twice at the same place undoes the first draw, and the second draw's `VF` is 1 exactly
when some pixel under a set bit was 0 before the first (the spec's own derivation in R226). -/
def Obligations.DrawingTwiceUndoesTheDraw : Prop :=
  ∀ (s t u v : State) (x y : Reg) (n : Fin 16),
    exec (.drw x y n) s = .next t → t.fault = none → exec (.drw x y n) u = .next v → v.fault = none →
    u.fb = t.fb → u.reg x = s.reg x → u.reg y = s.reg y → u.I = s.I →
    (∀ r, r < n.val → u.mem.read (s.I.toNat + r) = s.mem.read (s.I.toNat + r)) →
    (∀ px py, pixel v.fb px py = pixel s.fb px py) ∧
    (v.reg VF = 1 ↔ ∃ px py, covers s (s.reg x).toNat (s.reg y).toNat n.val px py = true ∧
      pixel s.fb px py = false)

/-! ## Keys and timers (45_timers_input.md) -/

/-- SKP skips when key `Vx` is pressed and SKNP when it is not, for `Vx` from 0 to 15, and nothing else changes;
for `Vx` of 16 or more both raise KeyIndexOutOfRange with the value, precisely (R240 to R242). -/
def Obligations.KeySkipsTestTheNamedKeyOrFault : Prop :=
  ∀ (s : State) (x : Reg),
    (∀ _ : (s.reg x).toNat < 16,
      (∃ t, exec (.skp x) s = .next t ∧ OnlyPc s t ∧
        t.pc = if s.keys[(s.reg x).toNat] then s.pc + 4 else s.pc + 2) ∧
      (∃ t, exec (.sknp x) s = .next t ∧ OnlyPc s t ∧
        t.pc = if s.keys[(s.reg x).toNat] then s.pc + 2 else s.pc + 4)) ∧
    (16 ≤ (s.reg x).toNat →
      (∃ t, exec (.skp x) s = .next t ∧ FaultedAt s t (.skp x) (.keyIndexOutOfRange (s.reg x))) ∧
      (∃ t, exec (.sknp x) s = .next t ∧ FaultedAt s t (.sknp x) (.keyIndexOutOfRange (s.reg x))))

/-- LD Vx, K: while no key is pressed nothing changes and the same instruction is next; otherwise `Vx` is the
lowest pressed key (R244). -/
def Obligations.WaitForKeyTakesTheLowestKey : Prop :=
  ∀ (s : State) (x : Reg),
    ((∀ k : Fin 16, s.keys[k] = false) → exec (.ldVK x) s = .next s) ∧
    ∀ k : Fin 16, s.keys[k] = true → (∀ j : Fin 16, j < k → s.keys[j] = false) →
      ∃ t, exec (.ldVK x) s = .next t ∧ (t.reg x).toNat = k.val ∧ WritesOnly s t [x]

/-- LD Vx, DT; LD DT, Vx; LD ST, Vx: the value moved, and nothing else changed (R243, R245, R246). -/
def Obligations.TimerMovesCopyOneByte : Prop :=
  ∀ (s : State) (x : Reg),
    (∃ t, exec (.ldVDt x) s = .next t ∧ t.reg x = s.DT ∧ WritesOnly s t [x]) ∧
    (∃ t, exec (.ldDtV x) s = .next t ∧ t.DT = s.reg x ∧ t.ST = s.ST ∧ t.pc = s.pc + 2 ∧
      RegsSameBut s t [] ∧ t.I = s.I ∧ MemSame s t ∧ StackSame s t ∧ ScreenSame s t ∧ HostSideSame s t) ∧
    (∃ t, exec (.ldStV x) s = .next t ∧ t.ST = s.reg x ∧ t.DT = s.DT ∧ t.pc = s.pc + 2 ∧
      RegsSameBut s t [] ∧ t.I = s.I ∧ MemSame s t ∧ StackSame s t ∧ ScreenSame s t ∧ HostSideSame s t)

/-! ## Rules about all instructions -/

/-- A general register changes only as the named destination of an instruction, or, for `VF`, as the flag of one
of the six of R23. -/
def Obligations.RegistersChangeOnlyAsNamedOrFlag : Prop :=
  ∀ (p : Config.Params) (i : Instr) (s t : State) (r : Reg), execUnder p i s = .next t →
    t.reg r ≠ s.reg r → i.names p r = true ∨ (r = VF ∧ i.writesFlag = true)

/-- Each other element has only the writers the spec names: `I` ANNN, FX1E, FX29 (R25); the stack CALL and RET
(R28); `DT` FX15, `ST` FX18 (R31, outside the tick phase); the screen CLS and DRW (R33); memory FX33 and FX55
(R61); the keys and the step's inputs no instruction (R34, R121). -/
def Obligations.ElementsHaveOnlyTheirWriters : Prop :=
  ∀ (p : Config.Params) (i : Instr) (s t : State), execUnder p i s = .next t →
    (t.I ≠ s.I → (∃ nnn, i = .ldI nnn) ∨ (∃ x, i = .addI x) ∨ ∃ x, i = .ldF x) ∧
    (t.stack ≠ s.stack → ∃ nnn, i = .call nnn) ∧
    (t.sp ≠ s.sp → (∃ nnn, i = .call nnn) ∨ i = .ret) ∧
    (t.DT ≠ s.DT → ∃ x, i = .ldDtV x) ∧
    (t.ST ≠ s.ST → ∃ x, i = .ldStV x) ∧
    (t.fb ≠ s.fb → i = .cls ∨ ∃ x y n, i = .drw x y n) ∧
    (t.mem ≠ s.mem → (∃ x, i = .ldB x) ∨ ∃ x, i = .ldMemV x) ∧
    t.keys = s.keys ∧ t.inputs = s.inputs ∧ t.inputNo = s.inputNo ∧ t.status = s.status

/-- A running step never changes the keys, and raises a timer only when it runs FX15 or FX18 (R31, R34). -/
def Obligations.StepsNeverRaiseATimerOrTouchKeys : Prop :=
  ∀ (p : Config.Params) (s t : State), stepUnder p s = .next t →
    t.keys = s.keys ∧
    (s.DT.toNat < t.DT.toNat → ∃ x, decode s.fetch = .ok (.ldDtV x)) ∧
    (s.ST.toNat < t.ST.toNat → ∃ x, decode s.fetch = .ok (.ldStV x))

/-- Every instruction outside R150's list that raises no fault advances `pc` by exactly 2, and one that raises a
fault leaves `pc` alone (R128, R150). -/
def Obligations.PcAdvancesByTwoUnlessRedirected : Prop :=
  ∀ (p : Config.Params) (i : Instr) (s t : State), s.fault = none → execUnder p i s = .next t →
    (t.fault ≠ none → t.pc = s.pc) ∧
    (t.fault = none → i.redirects = false → t.pc = s.pc + 2) ∧
    (s.pc.toNat ≤ 0xFFE → i.redirects = false → t.fault = none → t.pc.toNat = s.pc.toNat + 2)

/-! ## The invariant -/

/-- The state after reset meets the invariant. -/
def Obligations.ResetMeetsTheInvariant : Prop := Inv State.reset

/-- Every step keeps the invariant, from every state that meets it, under every parameter (R26, R151, R262). -/
def Obligations.StepKeepsTheInvariant : Prop :=
  ∀ (p : Config.Params) (s t : State), Inv s → stepUnder p s = .next t → Inv t

/-- Every transaction of the host keeps the invariant, so it holds of every state a host can bring the core to
under `reset_regs = zero` (R137 to R145). -/
def Obligations.HostTransactionsKeepTheInvariant : Prop :=
  ∀ (p : Config.Params) (op : HostOp) (s t : State) (reply : HostReply), p.resetRegs = .zero → Inv s →
    hostDo p op s = .next (t, reply) → Inv t
end

