-- ==== Sys2Proof/Laws/Memory.lean ====
section
/-! SUPPORT. The laws of memory: a read after a write, the canonical form, and what a block access can do. -/

namespace Sys2Proof.Machine

namespace Memory

/-! ## One byte -/

theorem byteAt_erase (m : Memory) (a b : Nat) :
    (m.erase a).byteAt b = if b = a then resetByte a else m.byteAt b := by
  induction m with
  | nil => simp +contextual [erase, byteAt]
  | cons e m ih =>
    obtain ⟨k, c⟩ := e
    rw [erase]
    split
    · subst k
      rw [ih, byteAt]
      split <;> simp_all [eq_comm]
    · rw [byteAt, byteAt, ih]
      split <;> simp_all

theorem byteAt_insert (m : Memory) (a b : Nat) (v : Byte) (hm : ∀ e ∈ m, e.1 ≠ a) :
    (m.insert a v).byteAt b = if b = a then v else m.byteAt b := by
  induction m with
  | nil => simp [insert, byteAt, eq_comm]
  | cons e m ih =>
    obtain ⟨k, c⟩ := e
    have hk : k ≠ a := hm (k, c) (by simp)
    rw [insert]
    split
    · simp only [byteAt]
      rw [ih fun e he => hm e (by simp [he])]
      by_cases hb : k = b
      · subst hb; simp [hk]
      · simp [hb]
    · simp only [byteAt, eq_comm]

theorem mem_erase {m : Memory} {a : Nat} {e : Host.Cell} (h : e ∈ m.erase a) : e ∈ m ∧ e.1 ≠ a := by
  induction m with
  | nil => simp [erase] at h
  | cons f m ih =>
    obtain ⟨k, c⟩ := f
    rw [erase] at h
    split at h
    · exact ⟨by simp [(ih h).1], (ih h).2⟩
    · rcases List.mem_cons.mp h with rfl | h
      · exact ⟨by simp, ‹_›⟩
      · exact ⟨by simp [(ih h).1], (ih h).2⟩

/-- A read after a write: the byte written at its own address, and every other address as before. -/
theorem byteAt_write (m : Memory) (a b : Nat) (v : Byte) :
    (m.write a v).byteAt b = if b = a then v else m.byteAt b := by
  rw [write]
  split
  · rw [byteAt_erase]; simp_all
  · rw [byteAt_insert _ _ _ _ fun e he => (mem_erase he).2, byteAt_erase]
    split <;> simp_all

theorem read_eq {m : Memory} {a : Nat} (h : a < Config.memSize) : m.read a = some (m.byteAt a) := by
  simp [read, h]

theorem read_none {m : Memory} {a : Nat} (h : Config.memSize ≤ a) : m.read a = none := by
  rw [read, if_neg (by omega)]

/-- Memories with the same bytes read the same. -/
theorem read_congr {m n : Memory} {a : Nat} (h : m.byteAt a = n.byteAt a) : m.read a = n.read a := by
  simp [read, h]

theorem byteAt_of_read {m n : Memory} {a : Nat} (ha : a < Config.memSize) (h : m.read a = n.read a) :
    m.byteAt a = n.byteAt a := by
  simpa [read, ha] using h

/-! ## The canonical form -/

theorem wfFrom_mono {m : Memory} {lo lo' : Nat} (h : lo ≤ lo') (hm : wfFrom lo' m = true) :
    wfFrom lo m = true := by
  cases m with
  | nil => rfl
  | cons e m =>
    obtain ⟨k, c⟩ := e
    simp only [wfFrom, Bool.and_eq_true, decide_eq_true_eq, bne_iff_ne] at hm ⊢
    exact ⟨⟨⟨by omega, hm.1.1.2⟩, hm.1.2⟩, hm.2⟩

theorem wfFrom_erase {m : Memory} {lo : Nat} (a : Nat) (hm : wfFrom lo m = true) :
    wfFrom lo (m.erase a) = true := by
  induction m generalizing lo with
  | nil => rfl
  | cons e m ih =>
    obtain ⟨k, c⟩ := e
    simp only [wfFrom, Bool.and_eq_true, decide_eq_true_eq, bne_iff_ne] at hm
    rw [erase]
    split
    · exact wfFrom_mono (by omega) (ih hm.2)
    · simp only [wfFrom, Bool.and_eq_true, decide_eq_true_eq, bne_iff_ne]
      exact ⟨hm.1, ih hm.2⟩

theorem wfFrom_insert {m : Memory} {lo a : Nat} {b : Byte} (hm : wfFrom lo m = true) (hlo : lo ≤ a)
    (ha : a < Config.memSize) (hb : b ≠ resetByte a) (hk : ∀ e ∈ m, e.1 ≠ a) :
    wfFrom lo (m.insert a b) = true := by
  induction m generalizing lo with
  | nil => simp [insert, wfFrom, hlo, ha, hb]
  | cons e m ih =>
    obtain ⟨k, c⟩ := e
    have hka : k ≠ a := hk (k, c) (by simp)
    simp only [wfFrom, Bool.and_eq_true, decide_eq_true_eq, bne_iff_ne] at hm
    rw [insert]
    split
    · simp only [wfFrom, Bool.and_eq_true, decide_eq_true_eq, bne_iff_ne]
      exact ⟨hm.1, ih hm.2 (by omega) fun e he => hk e (by simp [he])⟩
    · simp only [wfFrom, Bool.and_eq_true, decide_eq_true_eq, bne_iff_ne]
      exact ⟨⟨⟨hlo, ha⟩, hb⟩, ⟨⟨by omega, hm.1.1.2⟩, hm.1.2⟩, hm.2⟩

/-- A write inside the address space keeps the canonical form. -/
theorem wf_write {m : Memory} {a : Nat} (b : Byte) (hm : m.wf = true) (ha : a < Config.memSize) :
    (m.write a b).wf = true := by
  rw [write]
  split
  · exact wfFrom_erase a hm
  · exact wfFrom_insert (wfFrom_erase a hm) (by omega) ha ‹_› fun e he => (mem_erase he).2

/-- The empty list, memory after reset, is canonical. -/
theorem wf_nil : Memory.wf [] = true := rfl

theorem byteAt_of_wfFrom {m : Memory} {lo a : Nat} (hm : wfFrom lo m = true) (ha : a < lo) :
    m.byteAt a = resetByte a := by
  induction m generalizing lo with
  | nil => rfl
  | cons e m ih =>
    obtain ⟨k, c⟩ := e
    simp only [wfFrom, Bool.and_eq_true, decide_eq_true_eq, bne_iff_ne] at hm
    rw [byteAt, if_neg (by omega), ih hm.2 (by omega)]

theorem eq_of_wfFrom {m n : Memory} {lo : Nat} (hm : wfFrom lo m = true) (hn : wfFrom lo n = true)
    (h : ∀ a, m.byteAt a = n.byteAt a) : m = n := by
  induction m generalizing lo n with
  | nil =>
    cases n with
    | nil => rfl
    | cons f n =>
      obtain ⟨l, d⟩ := f
      simp only [wfFrom, Bool.and_eq_true, decide_eq_true_eq, bne_iff_ne] at hn
      exact absurd (by simpa [byteAt] using (h l).symm) hn.1.2
  | cons e m ih =>
    obtain ⟨k, c⟩ := e
    simp only [wfFrom, Bool.and_eq_true, decide_eq_true_eq, bne_iff_ne] at hm
    cases n with
    | nil => exact absurd (by simpa [byteAt] using h k) hm.1.2
    | cons f n =>
      obtain ⟨l, d⟩ := f
      simp only [wfFrom, Bool.and_eq_true, decide_eq_true_eq, bne_iff_ne] at hn
      have hkl : k = l := by
        rcases Nat.lt_trichotomy k l with hlt | heq | hgt
        · have := h k
          rw [byteAt, byteAt, if_pos rfl, if_neg (by omega), byteAt_of_wfFrom hn.2 (by omega)] at this
          exact absurd this hm.1.2
        · exact heq
        · have := h l
          rw [byteAt, byteAt, if_pos rfl, if_neg (by omega), byteAt_of_wfFrom hm.2 (by omega)] at this
          exact absurd this.symm hn.1.2
      subst hkl
      have hcd : c = d := by simpa [byteAt] using h k
      subst hcd
      rw [ih hm.2 hn.2]
      intro a
      by_cases ha : k = a
      · subst ha
        rw [byteAt_of_wfFrom hm.2 (by omega), byteAt_of_wfFrom hn.2 (by omega)]
      · simpa [byteAt, ha] using h a

/-- Equal memories are equal data: canonical lists with the same bytes are the same list. -/
theorem eq_of_wf {m n : Memory} (hm : m.wf = true) (hn : n.wf = true)
    (h : ∀ a, m.byteAt a = n.byteAt a) : m = n := eq_of_wfFrom hm hn h

/-! ## Sequences of bytes -/

/-- A sequence written from `a` on: its own bytes there, and every other address as before. -/
theorem byteAt_writeSeq (m : Memory) (a b : Nat) (bs : List Byte) :
    (m.writeSeq a bs).byteAt b = if a ≤ b then (bs[b - a]?).getD (m.byteAt b) else m.byteAt b := by
  induction bs generalizing m a with
  | nil => simp [writeSeq]
  | cons v bs ih =>
    rw [writeSeq, ih, byteAt_write]
    by_cases h1 : b = a
    · subst h1; simp
    · by_cases h2 : a ≤ b
      · have h3 : b - a = (b - (a + 1)) + 1 := by omega
        rw [if_pos (by omega), if_neg h1, if_pos h2, h3, List.getElem?_cons_succ]
      · rw [if_neg (by omega), if_neg h1, if_neg h2]

theorem byteAt_writeSeq_outside {m : Memory} {a b : Nat} {bs : List Byte} (h : b < a ∨ a + bs.length ≤ b) :
    (m.writeSeq a bs).byteAt b = m.byteAt b := by
  rw [byteAt_writeSeq]
  split
  · rw [List.getElem?_eq_none (by omega)]; rfl
  · rfl

theorem byteAt_writeSeq_inside {m : Memory} {a k : Nat} {bs : List Byte} (h : k < bs.length) :
    (m.writeSeq a bs).byteAt (a + k) = bs[k] := by
  rw [byteAt_writeSeq, if_pos (by omega), Nat.add_sub_cancel_left, List.getElem?_eq_getElem h]; rfl

/-- A sequence of writes inside the address space keeps the canonical form. -/
theorem wf_writeSeq {m : Memory} {a : Nat} (bs : List Byte) (hm : m.wf = true)
    (h : a + bs.length ≤ Config.memSize) : (m.writeSeq a bs).wf = true := by
  induction bs generalizing m a with
  | nil => exact hm
  | cons b bs ih =>
    simp only [List.length_cons] at h
    exact ih (wf_write b hm (by omega)) (by omega)

@[simp] theorem length_readSeq (m : Memory) (a cnt : Nat) : (m.readSeq a cnt).length = cnt := by
  induction cnt generalizing a with
  | zero => rfl
  | succ cnt ih => simp [readSeq, ih]

theorem getElem_readSeq (m : Memory) (a cnt k : Nat) (h : k < (m.readSeq a cnt).length) :
    (m.readSeq a cnt)[k] = m.byteAt (a + k) := by
  induction cnt generalizing a k with
  | zero => simp at h
  | succ cnt ih =>
    cases k with
    | zero => rfl
    | succ k =>
      simp only [readSeq, List.getElem_cons_succ]
      rw [ih]; congr 1; omega

end Memory

/-! ## The range check and the block accesses -/

/-- The range check passes: every address is inside the address space. -/
theorem lowestBad_none {a cnt : Nat} : lowestBad a cnt = none ↔ cnt = 0 ∨ a + cnt ≤ Config.memSize := by
  rw [lowestBad]
  split
  · simp only [reduceCtorEq, false_iff]; omega
  · simp only [true_iff]; omega

/-- The range check fails: the address recorded is bad, in the range, and no bad address in the range is lower. -/
theorem lowestBad_some {a cnt bad : Nat} (h : lowestBad a cnt = some bad) :
    bad = max a Config.memSize ∧ a ≤ bad ∧ bad < a + cnt ∧ Config.memSize ≤ bad ∧
    ∀ k < cnt, Config.memSize ≤ a + k → bad ≤ a + k := by
  rw [lowestBad] at h
  split at h
  · cases h
    exact ⟨rfl, by omega, by omega, by omega, fun k hk hb => by omega⟩
  · cases h

/-- What a block read can do. -/
theorem loadBlock_cases (m : Memory) (a cnt : Nat) :
    (m.loadBlock a cnt = .ok (m.readSeq a cnt) ∧ (cnt = 0 ∨ a + cnt ≤ Config.memSize)) ∨
    (m.loadBlock a cnt = .error (max a Config.memSize) ∧ 0 < cnt ∧ Config.memSize < a + cnt) := by
  rw [Memory.loadBlock]
  cases h : lowestBad a cnt with
  | none => exact .inl ⟨rfl, lowestBad_none.mp h⟩
  | some bad =>
    obtain ⟨rfl, h⟩ := lowestBad_some h
    exact .inr ⟨rfl, by omega, by omega⟩

/-- What a block write can do. -/
theorem storeBlock_cases (m : Memory) (a : Nat) (bs : List Byte) :
    (m.storeBlock a bs = .ok (m.writeSeq a bs) ∧ (bs.length = 0 ∨ a + bs.length ≤ Config.memSize)) ∨
    (m.storeBlock a bs = .error (max a Config.memSize) ∧ 0 < bs.length ∧
      Config.memSize < a + bs.length) := by
  rw [Memory.storeBlock]
  cases h : lowestBad a bs.length with
  | none => exact .inl ⟨rfl, lowestBad_none.mp h⟩
  | some bad =>
    obtain ⟨rfl, h⟩ := lowestBad_some h
    exact .inr ⟨rfl, by omega, by omega⟩

/-- A block write that succeeds keeps the canonical form. -/
theorem wf_storeBlock {m n : Memory} {a : Nat} {bs : List Byte} (hm : m.wf = true)
    (h : m.storeBlock a bs = .ok n) : n.wf = true := by
  rcases storeBlock_cases m a bs with ⟨h', hr⟩ | ⟨h', -⟩ <;> rw [h] at h' <;> cases h'
  rcases hr with hr | hr
  · rw [List.length_eq_zero_iff.mp hr]; exact hm
  · exact Memory.wf_writeSeq bs hm hr

end Sys2Proof.Machine
end

