-- ==== Sys2Proof/Laws/State.lean ====
section
/-! SUPPORT. What each named update of the state leaves in each field: one lemma per field per update, true by
`rfl`, so that no proof unfolds a record update. -/

namespace Sys2Proof.Machine.State

variable (s : State)

/-! ### setReg -/

@[simp] theorem setReg_mem (x : Reg) (b : Byte) : (s.setReg x b).mem = s.mem := rfl
@[simp] theorem setReg_V (x : Reg) (b : Byte) : (s.setReg x b).V = s.V.set x b := rfl
@[simp] theorem setReg_I (x : Reg) (b : Byte) : (s.setReg x b).I = s.I := rfl
@[simp] theorem setReg_pc (x : Reg) (b : Byte) : (s.setReg x b).pc = s.pc := rfl
@[simp] theorem setReg_stack (x : Reg) (b : Byte) : (s.setReg x b).stack = s.stack := rfl
@[simp] theorem setReg_sp (x : Reg) (b : Byte) : (s.setReg x b).sp = s.sp := rfl
@[simp] theorem setReg_DT (x : Reg) (b : Byte) : (s.setReg x b).DT = s.DT := rfl
@[simp] theorem setReg_ST (x : Reg) (b : Byte) : (s.setReg x b).ST = s.ST := rfl
@[simp] theorem setReg_fb (x : Reg) (b : Byte) : (s.setReg x b).fb = s.fb := rfl
@[simp] theorem setReg_keys (x : Reg) (b : Byte) : (s.setReg x b).keys = s.keys := rfl
@[simp] theorem setReg_fault (x : Reg) (b : Byte) : (s.setReg x b).fault = s.fault := rfl
@[simp] theorem setReg_status (x : Reg) (b : Byte) : (s.setReg x b).status = s.status := rfl
@[simp] theorem setReg_inputs (x : Reg) (b : Byte) : (s.setReg x b).inputs = s.inputs := rfl
@[simp] theorem setReg_inputNo (x : Reg) (b : Byte) : (s.setReg x b).inputNo = s.inputNo := rfl
@[simp] theorem setReg_ticks (x : Reg) (b : Byte) (p : Config.Params) : (s.setReg x b).ticks p = s.ticks p := rfl
@[simp] theorem setReg_rnd (x : Reg) (b : Byte) : (s.setReg x b).rnd = s.rnd := rfl

/-! ### setRegs -/

@[simp] theorem setRegs_mem (bs : List Byte) : (s.setRegs bs).mem = s.mem := rfl
@[simp] theorem setRegs_V (bs : List Byte) : (s.setRegs bs).V = setRegsFrom s.V 0 bs := rfl
@[simp] theorem setRegs_I (bs : List Byte) : (s.setRegs bs).I = s.I := rfl
@[simp] theorem setRegs_pc (bs : List Byte) : (s.setRegs bs).pc = s.pc := rfl
@[simp] theorem setRegs_stack (bs : List Byte) : (s.setRegs bs).stack = s.stack := rfl
@[simp] theorem setRegs_sp (bs : List Byte) : (s.setRegs bs).sp = s.sp := rfl
@[simp] theorem setRegs_DT (bs : List Byte) : (s.setRegs bs).DT = s.DT := rfl
@[simp] theorem setRegs_ST (bs : List Byte) : (s.setRegs bs).ST = s.ST := rfl
@[simp] theorem setRegs_fb (bs : List Byte) : (s.setRegs bs).fb = s.fb := rfl
@[simp] theorem setRegs_keys (bs : List Byte) : (s.setRegs bs).keys = s.keys := rfl
@[simp] theorem setRegs_fault (bs : List Byte) : (s.setRegs bs).fault = s.fault := rfl
@[simp] theorem setRegs_status (bs : List Byte) : (s.setRegs bs).status = s.status := rfl
@[simp] theorem setRegs_inputs (bs : List Byte) : (s.setRegs bs).inputs = s.inputs := rfl
@[simp] theorem setRegs_inputNo (bs : List Byte) : (s.setRegs bs).inputNo = s.inputNo := rfl
@[simp] theorem setRegs_ticks (bs : List Byte) (p : Config.Params) : (s.setRegs bs).ticks p = s.ticks p := rfl
@[simp] theorem setRegs_rnd (bs : List Byte) : (s.setRegs bs).rnd = s.rnd := rfl

/-! ### setI -/

@[simp] theorem setI_mem (w : Word) : (s.setI w).mem = s.mem := rfl
@[simp] theorem setI_V (w : Word) : (s.setI w).V = s.V := rfl
@[simp] theorem setI_I (w : Word) : (s.setI w).I = w := rfl
@[simp] theorem setI_pc (w : Word) : (s.setI w).pc = s.pc := rfl
@[simp] theorem setI_stack (w : Word) : (s.setI w).stack = s.stack := rfl
@[simp] theorem setI_sp (w : Word) : (s.setI w).sp = s.sp := rfl
@[simp] theorem setI_DT (w : Word) : (s.setI w).DT = s.DT := rfl
@[simp] theorem setI_ST (w : Word) : (s.setI w).ST = s.ST := rfl
@[simp] theorem setI_fb (w : Word) : (s.setI w).fb = s.fb := rfl
@[simp] theorem setI_keys (w : Word) : (s.setI w).keys = s.keys := rfl
@[simp] theorem setI_fault (w : Word) : (s.setI w).fault = s.fault := rfl
@[simp] theorem setI_status (w : Word) : (s.setI w).status = s.status := rfl
@[simp] theorem setI_inputs (w : Word) : (s.setI w).inputs = s.inputs := rfl
@[simp] theorem setI_inputNo (w : Word) : (s.setI w).inputNo = s.inputNo := rfl
@[simp] theorem setI_reg (w : Word) (r : Reg) : (s.setI w).reg r = s.reg r := rfl
@[simp] theorem setI_ticks (w : Word) (p : Config.Params) : (s.setI w).ticks p = s.ticks p := rfl
@[simp] theorem setI_rnd (w : Word) : (s.setI w).rnd = s.rnd := rfl

/-! ### setMem -/

@[simp] theorem setMem_mem (m : Memory) : (s.setMem m).mem = m := rfl
@[simp] theorem setMem_V (m : Memory) : (s.setMem m).V = s.V := rfl
@[simp] theorem setMem_I (m : Memory) : (s.setMem m).I = s.I := rfl
@[simp] theorem setMem_pc (m : Memory) : (s.setMem m).pc = s.pc := rfl
@[simp] theorem setMem_stack (m : Memory) : (s.setMem m).stack = s.stack := rfl
@[simp] theorem setMem_sp (m : Memory) : (s.setMem m).sp = s.sp := rfl
@[simp] theorem setMem_DT (m : Memory) : (s.setMem m).DT = s.DT := rfl
@[simp] theorem setMem_ST (m : Memory) : (s.setMem m).ST = s.ST := rfl
@[simp] theorem setMem_fb (m : Memory) : (s.setMem m).fb = s.fb := rfl
@[simp] theorem setMem_keys (m : Memory) : (s.setMem m).keys = s.keys := rfl
@[simp] theorem setMem_fault (m : Memory) : (s.setMem m).fault = s.fault := rfl
@[simp] theorem setMem_status (m : Memory) : (s.setMem m).status = s.status := rfl
@[simp] theorem setMem_inputs (m : Memory) : (s.setMem m).inputs = s.inputs := rfl
@[simp] theorem setMem_inputNo (m : Memory) : (s.setMem m).inputNo = s.inputNo := rfl
@[simp] theorem setMem_reg (m : Memory) (r : Reg) : (s.setMem m).reg r = s.reg r := rfl
@[simp] theorem setMem_ticks (m : Memory) (p : Config.Params) : (s.setMem m).ticks p = s.ticks p := rfl
@[simp] theorem setMem_rnd (m : Memory) : (s.setMem m).rnd = s.rnd := rfl

/-! ### jump -/

@[simp] theorem jump_mem (w : Word) : (s.jump w).mem = s.mem := rfl
@[simp] theorem jump_V (w : Word) : (s.jump w).V = s.V := rfl
@[simp] theorem jump_I (w : Word) : (s.jump w).I = s.I := rfl
@[simp] theorem jump_pc (w : Word) : (s.jump w).pc = w := rfl
@[simp] theorem jump_stack (w : Word) : (s.jump w).stack = s.stack := rfl
@[simp] theorem jump_sp (w : Word) : (s.jump w).sp = s.sp := rfl
@[simp] theorem jump_DT (w : Word) : (s.jump w).DT = s.DT := rfl
@[simp] theorem jump_ST (w : Word) : (s.jump w).ST = s.ST := rfl
@[simp] theorem jump_fb (w : Word) : (s.jump w).fb = s.fb := rfl
@[simp] theorem jump_keys (w : Word) : (s.jump w).keys = s.keys := rfl
@[simp] theorem jump_fault (w : Word) : (s.jump w).fault = s.fault := rfl
@[simp] theorem jump_status (w : Word) : (s.jump w).status = s.status := rfl
@[simp] theorem jump_inputs (w : Word) : (s.jump w).inputs = s.inputs := rfl
@[simp] theorem jump_inputNo (w : Word) : (s.jump w).inputNo = s.inputNo := rfl
@[simp] theorem jump_reg (w : Word) (r : Reg) : (s.jump w).reg r = s.reg r := rfl
@[simp] theorem jump_ticks (w : Word) (p : Config.Params) : (s.jump w).ticks p = s.ticks p := rfl
@[simp] theorem jump_rnd (w : Word) : (s.jump w).rnd = s.rnd := rfl

/-! ### advance -/

@[simp] theorem advance_mem : (s.advance).mem = s.mem := rfl
@[simp] theorem advance_V : (s.advance).V = s.V := rfl
@[simp] theorem advance_I : (s.advance).I = s.I := rfl
@[simp] theorem advance_pc : (s.advance).pc = s.pc + 2 := rfl
@[simp] theorem advance_stack : (s.advance).stack = s.stack := rfl
@[simp] theorem advance_sp : (s.advance).sp = s.sp := rfl
@[simp] theorem advance_DT : (s.advance).DT = s.DT := rfl
@[simp] theorem advance_ST : (s.advance).ST = s.ST := rfl
@[simp] theorem advance_fb : (s.advance).fb = s.fb := rfl
@[simp] theorem advance_keys : (s.advance).keys = s.keys := rfl
@[simp] theorem advance_fault : (s.advance).fault = s.fault := rfl
@[simp] theorem advance_status : (s.advance).status = s.status := rfl
@[simp] theorem advance_inputs : (s.advance).inputs = s.inputs := rfl
@[simp] theorem advance_inputNo : (s.advance).inputNo = s.inputNo := rfl
@[simp] theorem advance_reg (r : Reg) : (s.advance).reg r = s.reg r := rfl
@[simp] theorem advance_ticks (p : Config.Params) : (s.advance).ticks p = s.ticks p := rfl
@[simp] theorem advance_rnd : (s.advance).rnd = s.rnd := rfl

/-! ### skipIf -/

@[simp] theorem skipIf_mem (c : Bool) : (s.skipIf c).mem = s.mem := rfl
@[simp] theorem skipIf_V (c : Bool) : (s.skipIf c).V = s.V := rfl
@[simp] theorem skipIf_I (c : Bool) : (s.skipIf c).I = s.I := rfl
@[simp] theorem skipIf_pc (c : Bool) : (s.skipIf c).pc = if c then s.pc + 4 else s.pc + 2 := rfl
@[simp] theorem skipIf_stack (c : Bool) : (s.skipIf c).stack = s.stack := rfl
@[simp] theorem skipIf_sp (c : Bool) : (s.skipIf c).sp = s.sp := rfl
@[simp] theorem skipIf_DT (c : Bool) : (s.skipIf c).DT = s.DT := rfl
@[simp] theorem skipIf_ST (c : Bool) : (s.skipIf c).ST = s.ST := rfl
@[simp] theorem skipIf_fb (c : Bool) : (s.skipIf c).fb = s.fb := rfl
@[simp] theorem skipIf_keys (c : Bool) : (s.skipIf c).keys = s.keys := rfl
@[simp] theorem skipIf_fault (c : Bool) : (s.skipIf c).fault = s.fault := rfl
@[simp] theorem skipIf_status (c : Bool) : (s.skipIf c).status = s.status := rfl
@[simp] theorem skipIf_inputs (c : Bool) : (s.skipIf c).inputs = s.inputs := rfl
@[simp] theorem skipIf_inputNo (c : Bool) : (s.skipIf c).inputNo = s.inputNo := rfl
@[simp] theorem skipIf_reg (c : Bool) (r : Reg) : (s.skipIf c).reg r = s.reg r := rfl
@[simp] theorem skipIf_ticks (c : Bool) (p : Config.Params) : (s.skipIf c).ticks p = s.ticks p := rfl
@[simp] theorem skipIf_rnd (c : Bool) : (s.skipIf c).rnd = s.rnd := rfl

/-! ### setFb -/

@[simp] theorem setFb_mem (g : Framebuffer) : (s.setFb g).mem = s.mem := rfl
@[simp] theorem setFb_V (g : Framebuffer) : (s.setFb g).V = s.V := rfl
@[simp] theorem setFb_I (g : Framebuffer) : (s.setFb g).I = s.I := rfl
@[simp] theorem setFb_pc (g : Framebuffer) : (s.setFb g).pc = s.pc := rfl
@[simp] theorem setFb_stack (g : Framebuffer) : (s.setFb g).stack = s.stack := rfl
@[simp] theorem setFb_sp (g : Framebuffer) : (s.setFb g).sp = s.sp := rfl
@[simp] theorem setFb_DT (g : Framebuffer) : (s.setFb g).DT = s.DT := rfl
@[simp] theorem setFb_ST (g : Framebuffer) : (s.setFb g).ST = s.ST := rfl
@[simp] theorem setFb_fb (g : Framebuffer) : (s.setFb g).fb = g := rfl
@[simp] theorem setFb_keys (g : Framebuffer) : (s.setFb g).keys = s.keys := rfl
@[simp] theorem setFb_fault (g : Framebuffer) : (s.setFb g).fault = s.fault := rfl
@[simp] theorem setFb_status (g : Framebuffer) : (s.setFb g).status = s.status := rfl
@[simp] theorem setFb_inputs (g : Framebuffer) : (s.setFb g).inputs = s.inputs := rfl
@[simp] theorem setFb_inputNo (g : Framebuffer) : (s.setFb g).inputNo = s.inputNo := rfl
@[simp] theorem setFb_reg (g : Framebuffer) (r : Reg) : (s.setFb g).reg r = s.reg r := rfl
@[simp] theorem setFb_ticks (g : Framebuffer) (p : Config.Params) : (s.setFb g).ticks p = s.ticks p := rfl
@[simp] theorem setFb_rnd (g : Framebuffer) : (s.setFb g).rnd = s.rnd := rfl

/-! ### setDT -/

@[simp] theorem setDT_mem (b : Byte) : (s.setDT b).mem = s.mem := rfl
@[simp] theorem setDT_V (b : Byte) : (s.setDT b).V = s.V := rfl
@[simp] theorem setDT_I (b : Byte) : (s.setDT b).I = s.I := rfl
@[simp] theorem setDT_pc (b : Byte) : (s.setDT b).pc = s.pc := rfl
@[simp] theorem setDT_stack (b : Byte) : (s.setDT b).stack = s.stack := rfl
@[simp] theorem setDT_sp (b : Byte) : (s.setDT b).sp = s.sp := rfl
@[simp] theorem setDT_DT (b : Byte) : (s.setDT b).DT = b := rfl
@[simp] theorem setDT_ST (b : Byte) : (s.setDT b).ST = s.ST := rfl
@[simp] theorem setDT_fb (b : Byte) : (s.setDT b).fb = s.fb := rfl
@[simp] theorem setDT_keys (b : Byte) : (s.setDT b).keys = s.keys := rfl
@[simp] theorem setDT_fault (b : Byte) : (s.setDT b).fault = s.fault := rfl
@[simp] theorem setDT_status (b : Byte) : (s.setDT b).status = s.status := rfl
@[simp] theorem setDT_inputs (b : Byte) : (s.setDT b).inputs = s.inputs := rfl
@[simp] theorem setDT_inputNo (b : Byte) : (s.setDT b).inputNo = s.inputNo := rfl
@[simp] theorem setDT_reg (b : Byte) (r : Reg) : (s.setDT b).reg r = s.reg r := rfl
@[simp] theorem setDT_ticks (b : Byte) (p : Config.Params) : (s.setDT b).ticks p = s.ticks p := rfl
@[simp] theorem setDT_rnd (b : Byte) : (s.setDT b).rnd = s.rnd := rfl

/-! ### setST -/

@[simp] theorem setST_mem (b : Byte) : (s.setST b).mem = s.mem := rfl
@[simp] theorem setST_V (b : Byte) : (s.setST b).V = s.V := rfl
@[simp] theorem setST_I (b : Byte) : (s.setST b).I = s.I := rfl
@[simp] theorem setST_pc (b : Byte) : (s.setST b).pc = s.pc := rfl
@[simp] theorem setST_stack (b : Byte) : (s.setST b).stack = s.stack := rfl
@[simp] theorem setST_sp (b : Byte) : (s.setST b).sp = s.sp := rfl
@[simp] theorem setST_DT (b : Byte) : (s.setST b).DT = s.DT := rfl
@[simp] theorem setST_ST (b : Byte) : (s.setST b).ST = b := rfl
@[simp] theorem setST_fb (b : Byte) : (s.setST b).fb = s.fb := rfl
@[simp] theorem setST_keys (b : Byte) : (s.setST b).keys = s.keys := rfl
@[simp] theorem setST_fault (b : Byte) : (s.setST b).fault = s.fault := rfl
@[simp] theorem setST_status (b : Byte) : (s.setST b).status = s.status := rfl
@[simp] theorem setST_inputs (b : Byte) : (s.setST b).inputs = s.inputs := rfl
@[simp] theorem setST_inputNo (b : Byte) : (s.setST b).inputNo = s.inputNo := rfl
@[simp] theorem setST_reg (b : Byte) (r : Reg) : (s.setST b).reg r = s.reg r := rfl
@[simp] theorem setST_ticks (b : Byte) (p : Config.Params) : (s.setST b).ticks p = s.ticks p := rfl
@[simp] theorem setST_rnd (b : Byte) : (s.setST b).rnd = s.rnd := rfl

/-! ### tick -/

@[simp] theorem tick_mem (k : Nat) : (s.tick k).mem = s.mem := rfl
@[simp] theorem tick_V (k : Nat) : (s.tick k).V = s.V := rfl
@[simp] theorem tick_I (k : Nat) : (s.tick k).I = s.I := rfl
@[simp] theorem tick_pc (k : Nat) : (s.tick k).pc = s.pc := rfl
@[simp] theorem tick_stack (k : Nat) : (s.tick k).stack = s.stack := rfl
@[simp] theorem tick_sp (k : Nat) : (s.tick k).sp = s.sp := rfl
@[simp] theorem tick_DT (k : Nat) : (s.tick k).DT = tickTimer k s.DT := rfl
@[simp] theorem tick_ST (k : Nat) : (s.tick k).ST = tickTimer k s.ST := rfl
@[simp] theorem tick_fb (k : Nat) : (s.tick k).fb = s.fb := rfl
@[simp] theorem tick_keys (k : Nat) : (s.tick k).keys = s.keys := rfl
@[simp] theorem tick_fault (k : Nat) : (s.tick k).fault = s.fault := rfl
@[simp] theorem tick_status (k : Nat) : (s.tick k).status = s.status := rfl
@[simp] theorem tick_inputs (k : Nat) : (s.tick k).inputs = s.inputs := rfl
@[simp] theorem tick_inputNo (k : Nat) : (s.tick k).inputNo = s.inputNo := rfl
@[simp] theorem tick_reg (k : Nat) (r : Reg) : (s.tick k).reg r = s.reg r := rfl
@[simp] theorem tick_ticks (k : Nat) (p : Config.Params) : (s.tick k).ticks p = s.ticks p := rfl
@[simp] theorem tick_rnd (k : Nat) : (s.tick k).rnd = s.rnd := rfl

/-! ### returning -/

@[simp] theorem returning_mem (st : StepStatus) : (s.returning st).mem = s.mem := rfl
@[simp] theorem returning_V (st : StepStatus) : (s.returning st).V = s.V := rfl
@[simp] theorem returning_I (st : StepStatus) : (s.returning st).I = s.I := rfl
@[simp] theorem returning_pc (st : StepStatus) : (s.returning st).pc = s.pc := rfl
@[simp] theorem returning_stack (st : StepStatus) : (s.returning st).stack = s.stack := rfl
@[simp] theorem returning_sp (st : StepStatus) : (s.returning st).sp = s.sp := rfl
@[simp] theorem returning_DT (st : StepStatus) : (s.returning st).DT = s.DT := rfl
@[simp] theorem returning_ST (st : StepStatus) : (s.returning st).ST = s.ST := rfl
@[simp] theorem returning_fb (st : StepStatus) : (s.returning st).fb = s.fb := rfl
@[simp] theorem returning_keys (st : StepStatus) : (s.returning st).keys = s.keys := rfl
@[simp] theorem returning_fault (st : StepStatus) : (s.returning st).fault = s.fault := rfl
@[simp] theorem returning_status (st : StepStatus) : (s.returning st).status = some st := rfl
@[simp] theorem returning_inputs (st : StepStatus) : (s.returning st).inputs = s.inputs.tail := rfl
@[simp] theorem returning_inputNo (st : StepStatus) : (s.returning st).inputNo = s.inputNo + 1 := rfl
@[simp] theorem returning_reg (st : StepStatus) (r : Reg) : (s.returning st).reg r = s.reg r := rfl

/-! ### raise -/

@[simp] theorem raise_mem (c : FaultCause) (w : Option Word) : (s.raise c w).mem = s.mem := rfl
@[simp] theorem raise_V (c : FaultCause) (w : Option Word) : (s.raise c w).V = s.V := rfl
@[simp] theorem raise_I (c : FaultCause) (w : Option Word) : (s.raise c w).I = s.I := rfl
@[simp] theorem raise_pc (c : FaultCause) (w : Option Word) : (s.raise c w).pc = s.pc := rfl
@[simp] theorem raise_stack (c : FaultCause) (w : Option Word) : (s.raise c w).stack = s.stack := rfl
@[simp] theorem raise_sp (c : FaultCause) (w : Option Word) : (s.raise c w).sp = s.sp := rfl
@[simp] theorem raise_DT (c : FaultCause) (w : Option Word) : (s.raise c w).DT = s.DT := rfl
@[simp] theorem raise_ST (c : FaultCause) (w : Option Word) : (s.raise c w).ST = s.ST := rfl
@[simp] theorem raise_fb (c : FaultCause) (w : Option Word) : (s.raise c w).fb = s.fb := rfl
@[simp] theorem raise_keys (c : FaultCause) (w : Option Word) : (s.raise c w).keys = s.keys := rfl
@[simp] theorem raise_fault (c : FaultCause) (w : Option Word) : (s.raise c w).fault = some { cause := c, pc := s.pc, word := w } := rfl
@[simp] theorem raise_status (c : FaultCause) (w : Option Word) : (s.raise c w).status = s.status := rfl
@[simp] theorem raise_inputs (c : FaultCause) (w : Option Word) : (s.raise c w).inputs = s.inputs := rfl
@[simp] theorem raise_inputNo (c : FaultCause) (w : Option Word) : (s.raise c w).inputNo = s.inputNo := rfl
@[simp] theorem raise_reg (c : FaultCause) (w : Option Word) (r : Reg) : (s.raise c w).reg r = s.reg r := rfl
@[simp] theorem raise_ticks (c : FaultCause) (w : Option Word) (p : Config.Params) : (s.raise c w).ticks p = s.ticks p := rfl
@[simp] theorem raise_rnd (c : FaultCause) (w : Option Word) : (s.raise c w).rnd = s.rnd := rfl

/-! ### raiseIn -/

@[simp] theorem raiseIn_mem (i : Instr) (c : FaultCause) : (s.raiseIn i c).mem = s.mem := rfl
@[simp] theorem raiseIn_V (i : Instr) (c : FaultCause) : (s.raiseIn i c).V = s.V := rfl
@[simp] theorem raiseIn_I (i : Instr) (c : FaultCause) : (s.raiseIn i c).I = s.I := rfl
@[simp] theorem raiseIn_pc (i : Instr) (c : FaultCause) : (s.raiseIn i c).pc = s.pc := rfl
@[simp] theorem raiseIn_stack (i : Instr) (c : FaultCause) : (s.raiseIn i c).stack = s.stack := rfl
@[simp] theorem raiseIn_sp (i : Instr) (c : FaultCause) : (s.raiseIn i c).sp = s.sp := rfl
@[simp] theorem raiseIn_DT (i : Instr) (c : FaultCause) : (s.raiseIn i c).DT = s.DT := rfl
@[simp] theorem raiseIn_ST (i : Instr) (c : FaultCause) : (s.raiseIn i c).ST = s.ST := rfl
@[simp] theorem raiseIn_fb (i : Instr) (c : FaultCause) : (s.raiseIn i c).fb = s.fb := rfl
@[simp] theorem raiseIn_keys (i : Instr) (c : FaultCause) : (s.raiseIn i c).keys = s.keys := rfl
@[simp] theorem raiseIn_fault (i : Instr) (c : FaultCause) : (s.raiseIn i c).fault = some { cause := c, pc := s.pc, word := some (encode i) } := rfl
@[simp] theorem raiseIn_status (i : Instr) (c : FaultCause) : (s.raiseIn i c).status = s.status := rfl
@[simp] theorem raiseIn_inputs (i : Instr) (c : FaultCause) : (s.raiseIn i c).inputs = s.inputs := rfl
@[simp] theorem raiseIn_inputNo (i : Instr) (c : FaultCause) : (s.raiseIn i c).inputNo = s.inputNo := rfl
@[simp] theorem raiseIn_reg (i : Instr) (c : FaultCause) (r : Reg) : (s.raiseIn i c).reg r = s.reg r := rfl
@[simp] theorem raiseIn_ticks (i : Instr) (c : FaultCause) (p : Config.Params) : (s.raiseIn i c).ticks p = s.ticks p := rfl
@[simp] theorem raiseIn_rnd (i : Instr) (c : FaultCause) : (s.raiseIn i c).rnd = s.rnd := rfl

/-! ### setResultFlag -/

@[simp] theorem setResultFlag_mem (x : Reg) (b : Byte) (c : Bool) : (s.setResultFlag x b c).mem = s.mem := rfl
@[simp] theorem setResultFlag_V (x : Reg) (b : Byte) (c : Bool) : (s.setResultFlag x b c).V = (s.V.set x b).set VF (flagByte c) := rfl
@[simp] theorem setResultFlag_I (x : Reg) (b : Byte) (c : Bool) : (s.setResultFlag x b c).I = s.I := rfl
@[simp] theorem setResultFlag_pc (x : Reg) (b : Byte) (c : Bool) : (s.setResultFlag x b c).pc = s.pc := rfl
@[simp] theorem setResultFlag_stack (x : Reg) (b : Byte) (c : Bool) : (s.setResultFlag x b c).stack = s.stack := rfl
@[simp] theorem setResultFlag_sp (x : Reg) (b : Byte) (c : Bool) : (s.setResultFlag x b c).sp = s.sp := rfl
@[simp] theorem setResultFlag_DT (x : Reg) (b : Byte) (c : Bool) : (s.setResultFlag x b c).DT = s.DT := rfl
@[simp] theorem setResultFlag_ST (x : Reg) (b : Byte) (c : Bool) : (s.setResultFlag x b c).ST = s.ST := rfl
@[simp] theorem setResultFlag_fb (x : Reg) (b : Byte) (c : Bool) : (s.setResultFlag x b c).fb = s.fb := rfl
@[simp] theorem setResultFlag_keys (x : Reg) (b : Byte) (c : Bool) : (s.setResultFlag x b c).keys = s.keys := rfl
@[simp] theorem setResultFlag_fault (x : Reg) (b : Byte) (c : Bool) : (s.setResultFlag x b c).fault = s.fault := rfl
@[simp] theorem setResultFlag_status (x : Reg) (b : Byte) (c : Bool) : (s.setResultFlag x b c).status = s.status := rfl
@[simp] theorem setResultFlag_inputs (x : Reg) (b : Byte) (c : Bool) : (s.setResultFlag x b c).inputs = s.inputs := rfl
@[simp] theorem setResultFlag_inputNo (x : Reg) (b : Byte) (c : Bool) : (s.setResultFlag x b c).inputNo = s.inputNo := rfl
@[simp] theorem setResultFlag_ticks (x : Reg) (b : Byte) (c : Bool) (p : Config.Params) : (s.setResultFlag x b c).ticks p = s.ticks p := rfl
@[simp] theorem setResultFlag_rnd (x : Reg) (b : Byte) (c : Bool) : (s.setResultFlag x b c).rnd = s.rnd := rfl

/-! ### Reading a register that was written -/

theorem reg_setReg (x r : Reg) (b : Byte) :
    (s.setReg x b).reg r = if r = x then b else s.reg r := by
  simp only [reg, setReg, Fin.getElem_fin, Vector.getElem_set, Fin.ext_iff, eq_comm]

@[simp] theorem reg_setReg_self (x : Reg) (b : Byte) : (s.setReg x b).reg x = b := by
  simp [reg_setReg]

theorem reg_setReg_ne {x r : Reg} (h : r ≠ x) (b : Byte) : (s.setReg x b).reg r = s.reg r := by
  simp [reg_setReg, h]

/-- The flag is written last, so `VF` holds it even where `x` names `VF` (R177). -/
@[simp] theorem reg_setResultFlag_VF (x : Reg) (b : Byte) (c : Bool) :
    (s.setResultFlag x b c).reg VF = flagByte c := by
  simp [setResultFlag]

theorem reg_setResultFlag_dest {x : Reg} (h : x ≠ VF) (b : Byte) (c : Bool) :
    (s.setResultFlag x b c).reg x = b := by
  rw [setResultFlag, reg_setReg_ne _ h, reg_setReg_self]

theorem reg_setResultFlag_ne {x r : Reg} (hx : r ≠ x) (hf : r ≠ VF) (b : Byte) (c : Bool) :
    (s.setResultFlag x b c).reg r = s.reg r := by
  rw [setResultFlag, reg_setReg_ne _ hf, reg_setReg_ne _ hx]

end Sys2Proof.Machine.State
end

