-- ==== Sys2Proof/Laws/Ops.lean ====
section
/-! SUPPORT. One lemma for each shared operation, saying once what it can do. -/

namespace Sys2Proof.Machine

/-! ## The stack -/

/-- A push succeeds below 16 entries, writing only the entry at `sp` and `sp` itself; at 16 it is refused. -/
theorem push_cases (s : State) (w : Word) :
    (∃ (h : s.sp.val < 16) (n : Fin 17), n.val = s.sp.val + 1 ∧
      s.push w = some { s with stack := s.stack.set s.sp.val w, sp := n }) ∨
    (s.push w = none ∧ s.sp.val = 16) := by
  rw [State.push]
  split
  · exact .inl ⟨‹_›, ⟨s.sp.val + 1, by omega⟩, rfl, rfl⟩
  · exact .inr ⟨rfl, by omega⟩

/-- A pop succeeds on a stack that is not empty, writing only `sp`; on an empty one it is refused. -/
theorem pop_cases (s : State) :
    (∃ (_ : 0 < s.sp.val) (n : Fin 17), n.val = s.sp.val - 1 ∧
      s.pop = some (s.stack[s.sp.val - 1], { s with sp := n })) ∨
    (s.pop = none ∧ s.sp.val = 0) := by
  rw [State.pop]
  split
  · exact .inl ⟨‹_›, ⟨s.sp.val - 1, by omega⟩, rfl, rfl⟩
  · exact .inr ⟨rfl, by omega⟩

/-! ## Keys -/

theorem keyIndex_some {b : Byte} (h : b.toNat < 16) : keyIndex b = some ⟨b.toNat, h⟩ := by
  simp [keyIndex, h]

theorem keyIndex_none {b : Byte} (h : 16 ≤ b.toNat) : keyIndex b = none := by
  rw [keyIndex, dif_neg (by omega)]

theorem keyIndex_cases (b : Byte) :
    (∃ h : b.toNat < 16, keyIndex b = some ⟨b.toNat, h⟩) ∨ (keyIndex b = none ∧ 16 ≤ b.toNat) := by
  by_cases h : b.toNat < 16
  · exact .inl ⟨h, keyIndex_some h⟩
  · exact .inr ⟨keyIndex_none (by omega), by omega⟩

theorem lowestFrom_none {n : Nat} {ks : List Bool} : lowestFrom n ks = none ↔ ∀ b ∈ ks, b = false := by
  induction ks generalizing n with
  | nil => simp [lowestFrom]
  | cons b ks ih => cases b <;> simp [lowestFrom, ih]

theorem lowestFrom_some {n k : Nat} {ks : List Bool} (h : lowestFrom n ks = some k) :
    n ≤ k ∧ ks[k - n]? = some true ∧ ∀ j, n ≤ j → j < k → ks[j - n]? = some false := by
  induction ks generalizing n with
  | nil => simp [lowestFrom] at h
  | cons b ks ih =>
    cases b with
    | true =>
      simp only [lowestFrom, Option.some.injEq] at h
      subst h
      exact ⟨Nat.le_refl _, by simp, fun j h1 h2 => by omega⟩
    | false =>
      obtain ⟨h1, h2, h3⟩ := ih h
      have step : ∀ j, n + 1 ≤ j → (false :: ks)[j - n]? = ks[j - (n + 1)]? := fun j hj => by
        rw [show j - n = (j - (n + 1)) + 1 by omega, List.getElem?_cons_succ]
      refine ⟨by omega, by rw [step k h1]; exact h2, fun j hj hjk => ?_⟩
      by_cases hjn : j = n
      · subst hjn; simp
      · rw [step j (by omega)]; exact h3 j (by omega) hjk

/-- What the lowest pressed key is: none exactly when no key is pressed; otherwise pressed, with none below it. -/
theorem lowestKey_cases (keys : Vector Bool 16) :
    (lowestKey keys = none ∧ ∀ k : Fin 16, keys[k] = false) ∨
    ∃ k : Fin 16, lowestKey keys = some k.val ∧ keys[k] = true ∧ ∀ j : Fin 16, j < k → keys[j] = false := by
  cases h : lowestKey keys with
  | none =>
    refine .inl ⟨rfl, fun k => lowestFrom_none.mp h _ ?_⟩
    simp [Vector.mem_toList_iff]
  | some k =>
    obtain ⟨-, h2, h3⟩ := lowestFrom_some h
    rw [Nat.sub_zero] at h2
    obtain ⟨hk, h2⟩ := List.getElem?_eq_some_iff.mp h2
    rw [Vector.length_toList] at hk
    refine .inr ⟨⟨k, hk⟩, rfl, by simpa using h2, fun j hj => ?_⟩
    have h4 := h3 j.val (Nat.zero_le _) hj
    rw [Nat.sub_zero] at h4
    obtain ⟨-, h4⟩ := List.getElem?_eq_some_iff.mp h4
    simpa using h4

/-! ## Timers and inputs -/

/-- `k` ticks: lowered by `k`, never below 0 (R248). -/
@[simp] theorem toNat_tickTimer (k : Nat) (t : Byte) : (tickTimer k t).toNat = t.toNat - k := by
  have := t.isLt
  rw [tickTimer]
  split
  · rw [BitVec.toNat_ofNat]; omega
  · change 0 = _; omega

/-- The bound is kept, and a count within it is the input itself. -/
theorem boundTicks_some {p : Config.Params} {m : Nat} (h : p.maxTicksPerStep = some m) (k : Nat) :
    boundTicks p k = min k m := by simp [boundTicks, h]

theorem boundTicks_none {p : Config.Params} (h : p.maxTicksPerStep = none) (k : Nat) :
    boundTicks p k = k := by simp [boundTicks, h]

/-! ## Blocks of registers -/

theorem getElem_setRegsFrom (v : Vector Byte 16) (k : Nat) (bs : List Byte) (r : Nat) (hr : r < 16) :
    (setRegsFrom v k bs)[r] = if k ≤ r then (bs[r - k]?).getD v[r] else v[r] := by
  induction bs generalizing v k with
  | nil => simp [setRegsFrom]
  | cons b bs ih =>
    rw [setRegsFrom, ih, Vector.getElem_setIfInBounds]
    by_cases h1 : r = k
    · subst h1; simp
    · by_cases h2 : k ≤ r
      · have h3 : r - k = (r - (k + 1)) + 1 := by omega
        rw [if_pos (by omega), if_neg (by omega), if_pos h2, h3, List.getElem?_cons_succ]
      · rw [if_neg (by omega), if_neg (by omega), if_neg h2]

/-- The registers after a block load: the bytes, then the old values. -/
theorem reg_setRegs (s : State) (bs : List Byte) (r : Reg) :
    (s.setRegs bs).reg r = (bs[r.val]?).getD (s.reg r) := by
  simp only [State.reg, State.setRegs, Fin.getElem_fin, getElem_setRegsFrom, Nat.zero_le, if_true,
    Nat.sub_zero]

/-! ## Flags -/

@[simp] theorem toNat_flagByte (c : Bool) : (flagByte c).toNat = if c then 1 else 0 := by
  cases c <;> rfl

end Sys2Proof.Machine
end

