-- ==== Sys2Proof/Laws/Cycle.lean ====
section
/-! SUPPORT. What executing an instruction, and a step, can do: the inversion lemmas every statement about all
instructions or all steps is derived from. -/

namespace Sys2Proof.Machine

/-- Executing an instruction either completes, leaving the latch as it was, or does nothing but set the latch to a
fault of that instruction whose condition holds (R261, R262). -/
theorem execUnder_cases (p : Config.Params) (i : Instr) (s : State) :
    (∃ t, execUnder p i s = .next t ∧ t.fault = s.fault) ∨
    (∃ cause, i.canFault = true ∧ execUnder p i s = .next (s.raiseIn i cause) ∧
      cause ≠ .pcOutOfRange ∧
      FaultRecord.holdsIn { cause := cause, pc := s.pc, word := some (encode i) } s) := by
  cases i with
  | ret =>
    rcases pop_cases s with ⟨h, n, -, hp⟩ | ⟨hp, h⟩
    · left; simp only [execUnder, exec, execRet, hp, Host.Outcome.next.injEq, exists_eq_left']; rfl
    · exact .inr ⟨.stackUnderflow, rfl, by simp only [execUnder, exec, execRet, hp], nofun, Fin.ext h⟩
  | call nnn =>
    rcases push_cases s (s.pc + 2) with ⟨h, n, -, hp⟩ | ⟨hp, h⟩
    · left; simp only [execUnder, exec, execCall, hp, Host.Outcome.next.injEq, exists_eq_left']; rfl
    · exact .inr ⟨.stackOverflow, rfl, by simp only [execUnder, exec, execCall, hp], nofun, Fin.ext h⟩
  | skp x =>
    rcases keyIndex_cases (s.reg x) with ⟨h, hk⟩ | ⟨hk, h⟩
    · left; simp only [execUnder, exec, execSkp, hk, Host.Outcome.next.injEq, exists_eq_left']; rfl
    · exact .inr ⟨.keyIndexOutOfRange (s.reg x), rfl, by simp only [execUnder, exec, execSkp, hk], nofun, h⟩
  | sknp x =>
    rcases keyIndex_cases (s.reg x) with ⟨h, hk⟩ | ⟨hk, h⟩
    · left; simp only [execUnder, exec, execSknp, hk, Host.Outcome.next.injEq, exists_eq_left']; rfl
    · exact .inr ⟨.keyIndexOutOfRange (s.reg x), rfl, by simp only [execUnder, exec, execSknp, hk], nofun, h⟩
  | drw x y n =>
    rcases loadBlock_cases s.mem s.dataAddr n.val with ⟨hl, -⟩ | ⟨hl, -⟩
    · left; simp only [execUnder, exec, execDrw, hl, Host.Outcome.next.injEq, exists_eq_left']; rfl
    · exact .inr ⟨.memoryOutOfRange (max s.dataAddr Config.memSize), rfl, by simp only [execUnder, exec, execDrw, hl], nofun, rfl⟩
  | ldB x =>
    rcases storeBlock_cases s.mem s.dataAddr (bcdDigits (s.reg x)) with ⟨hl, -⟩ | ⟨hl, -⟩
    · left; simp only [execUnder, exec, execLdB, hl, Host.Outcome.next.injEq, exists_eq_left']; rfl
    · exact .inr ⟨.memoryOutOfRange (max s.dataAddr Config.memSize), rfl, by simp only [execUnder, exec, execLdB, hl], nofun, rfl⟩
  | ldMemV x =>
    rcases storeBlock_cases s.mem s.dataAddr (s.V.toList.take (blockCount p x)) with ⟨hl, -⟩ | ⟨hl, -⟩
    · left; simp only [execUnder, dumpUnder, hl, Host.Outcome.next.injEq, exists_eq_left']; rfl
    · exact .inr ⟨.memoryOutOfRange (max s.dataAddr Config.memSize), rfl, by simp only [execUnder, dumpUnder, hl], nofun, rfl⟩
  | ldVMem x =>
    rcases loadBlock_cases s.mem s.dataAddr (blockCount p x) with ⟨hl, -⟩ | ⟨hl, -⟩
    · left; simp only [execUnder, loadUnder, hl, Host.Outcome.next.injEq, exists_eq_left']; rfl
    · exact .inr ⟨.memoryOutOfRange (max s.dataAddr Config.memSize), rfl, by simp only [execUnder, loadUnder, hl], nofun, rfl⟩
  | ldVK x =>
    cases hk : lowestKey s.keys with
    | none => left; simp only [execUnder, exec, execLdVK, hk, Host.Outcome.next.injEq, exists_eq_left']; rfl
    | some k => left; simp only [execUnder, exec, execLdVK, hk, Host.Outcome.next.injEq, exists_eq_left']; rfl
  | _ => exact .inl ⟨_, rfl, rfl⟩

/-- What a step can do (R120 to R132, R262, R263, R267): nothing, on a halted core; a fault of the fetch; the
unknown-opcode rule; or the decoded instruction. In each, `conclude` says how the step ends. -/
theorem stepUnder_cases (p : Config.Params) (s : State) :
    (∃ r, s.fault = some r ∧ stepUnder p s = .next (s.returning (.halted r))) ∨
    (s.fault = none ∧ Config.lastFetch < s.pc.toNat ∧
      stepUnder p s = .next (conclude p .ok (s.raise .pcOutOfRange none))) ∨
    (s.fault = none ∧ s.pc.toNat ≤ Config.lastFetch ∧ ∃ e, decode s.fetch = .error e ∧
      stepUnder p s = .next (conclude p (.reported s.pc s.fetch) (unknownOpcode p s.fetch s))) ∨
    (s.fault = none ∧ s.pc.toNat ≤ Config.lastFetch ∧ ∃ i t, decode s.fetch = .ok i ∧
      execUnder p i s = .next t ∧ stepUnder p s = .next (conclude p .ok t)) := by
  cases hf : s.fault with
  | some r => exact .inl ⟨r, rfl, by simp only [stepUnder, hf]⟩
  | none =>
    by_cases hpc : Config.lastFetch < s.pc.toNat
    · exact .inr (.inl ⟨rfl, hpc, by simp only [stepUnder, hf, hpc, if_true]⟩)
    · refine .inr (.inr ?_)
      cases hd : decode s.fetch with
      | error e =>
        exact .inl ⟨rfl, by omega, e, rfl, by simp only [stepUnder, hf, hpc, if_false, runWord, hd]⟩
      | ok i =>
        have ht : ∃ t, execUnder p i s = .next t := by
          rcases execUnder_cases p i s with ⟨t, h, -⟩ | ⟨c, -, h, -, -⟩ <;> exact ⟨_, h⟩
        obtain ⟨t, ht⟩ := ht
        exact .inr ⟨rfl, by omega, i, t, rfl, ht, by simp only [stepUnder, hf, hpc, if_false, runWord, hd, ht]⟩

/-- The end of a step that raised no fault (R130). -/
theorem conclude_of_none {p : Config.Params} {st : StepStatus} {t : State} (h : t.fault = none) :
    conclude p st t = (t.tick (t.ticks p)).returning st := by
  simp only [conclude, h]

/-- The end of a step that raised a fault: no tick (R262, R263). -/
theorem conclude_of_some {p : Config.Params} {st : StepStatus} {t : State} {r : FaultRecord}
    (h : t.fault = some r) : conclude p st t = t.returning (.fault r) := by
  simp only [conclude, h]

end Sys2Proof.Machine
end

