-- ==== Sys2Proof/Laws/Display.lean ====
section
/-! SUPPORT. The blitter, pixel by pixel: what a toggle, a row and a whole sprite do to each pixel and to the
collision flag. -/

namespace Sys2Proof.Machine

theorem pixel_setPixel (fb : Framebuffer) (x x' : Fin 64) (y y' : Fin 32) (b : Bool) :
    pixel (setPixel fb x y b) x' y' = if x' = x ∧ y' = y then b else pixel fb x' y' := by
  simp only [pixel, setPixel, Fin.getElem_fin, Vector.getElem_set]
  by_cases hy : y' = y
  · subst hy
    by_cases hx : x' = x
    · simp [hx]
    · simp [hx, Ne.symm (fun h => hx (Fin.ext h) : x'.val ≠ x.val)]
  · simp [hy, Ne.symm (fun h => hy (Fin.ext h) : y'.val ≠ y.val)]

@[simp] theorem pixel_blankFb (x : Fin 64) (y : Fin 32) : pixel blankFb x y = false := by
  simp [pixel, blankFb]

/-- A toggle flips its own pixel and no other. -/
theorem pixel_toggle (k : Canvas) (x y : Nat) (px : Fin 64) (py : Fin 32) :
    pixel (k.toggle x y).fb px py =
      xor (pixel k.fb px py) (px == wrapX x && py == wrapY y) := by
  rw [Canvas.toggle, pixel_setPixel]
  by_cases h : px = wrapX x ∧ py = wrapY y
  · obtain ⟨rfl, rfl⟩ := h; simp
  · rw [if_neg h]
    have : (px == wrapX x && py == wrapY y) = false := by
      simpa [Bool.and_eq_false_iff] using h
    simp [this]

/-- A toggle notes the pixel it finds set. -/
theorem hit_toggle (k : Canvas) (x y : Nat) :
    (k.toggle x y).hit = (k.hit || pixel k.fb (wrapX x) (wrapY y)) := rfl

/-! ## A row -/

theorem wrapX_inj {x i j : Nat} (h : wrapX (x + i) = wrapX (x + j)) (hi : i < j + 64) (hj : j < i + 64) :
    i = j := by
  have := Fin.val_eq_of_eq h
  simp only [wrapX, Fin.ofNat] at this
  omega

theorem wrapY_inj {y i j : Nat} (h : wrapY (y + i) = wrapY (y + j)) (hi : i < j + 32) (hj : j < i + 32) :
    i = j := by
  have := Fin.val_eq_of_eq h
  simp only [wrapY, Fin.ofNat] at this
  omega

/-- Whether a column of `cs` has a set bit of `b` and lands on column `px`. -/
def rowCovers (x : Nat) (b : Byte) (cs : List Nat) (px : Fin 64) : Bool :=
  cs.any fun c => spriteBit b c && px == wrapX (x + c)

/-- One row toggles the pixels under its set bits: no column is touched twice (R224). -/
theorem pixel_drawCols (k : Canvas) (x y : Nat) (b : Byte) (c left : Nat) (h : left ≤ 64) (px : Fin 64)
    (py : Fin 32) :
    pixel (k.drawCols x y b c left).fb px py =
      xor (pixel k.fb px py) (py == wrapY y && rowCovers x b (List.range' c left) px) := by
  induction left generalizing k c with
  | zero => simp [Canvas.drawCols, rowCovers]
  | succ left ih =>
    rw [Canvas.drawCols, ih _ _ (by omega), rowCovers, rowCovers, List.range'_succ, List.any_cons]
    by_cases hb : spriteBit b c = true
    · rw [if_pos hb, pixel_toggle, hb, Bool.true_and]
      by_cases hx : px = wrapX (x + c)
      · have hrest : ((List.range' (c + 1) left).any fun c => spriteBit b c && px == wrapX (x + c)) = false := by
          rw [List.any_eq_false]
          intro i hi hcon
          rw [List.mem_range'_1] at hi
          simp only [Bool.and_eq_true, beq_iff_eq] at hcon
          have := wrapX_inj (hx.symm.trans hcon.2) (by omega) (by omega)
          omega
        rw [hrest]; simp [hx]
      · have : (px == wrapX (x + c)) = false := by simpa using hx
        simp [this]
    · rw [if_neg hb]; simp [Bool.eq_false_iff.mpr hb]

/-- One row reports a collision when a pixel under one of its set bits was set. -/
theorem hit_drawCols (k : Canvas) (x y : Nat) (b : Byte) (c left : Nat) (h : left ≤ 64) :
    (k.drawCols x y b c left).hit =
      (k.hit || (List.range' c left).any fun i => spriteBit b i && pixel k.fb (wrapX (x + i)) (wrapY y)) := by
  induction left generalizing k c with
  | zero => simp [Canvas.drawCols]
  | succ left ih =>
    rw [Canvas.drawCols, ih _ _ (by omega), List.range'_succ, List.any_cons]
    by_cases hb : spriteBit b c = true
    · rw [if_pos hb, hit_toggle, hb, Bool.true_and, Bool.or_assoc]
      congr 2
      rw [Bool.eq_iff_iff, List.any_eq_true, List.any_eq_true]
      refine exists_congr fun i => and_congr_right fun hi => ?_
      rw [List.mem_range'_1] at hi
      rw [pixel_toggle]
      have : (wrapX (x + i) == wrapX (x + c)) = false := by
        rw [beq_eq_false_iff_ne]
        intro he
        have := wrapX_inj he (by omega) (by omega)
        omega
      simp [this]
    · rw [if_neg hb]; simp [Bool.eq_false_iff.mpr hb]

/-! ## A sprite -/

/-- Whether a row of the sprite, counted from row `y`, has a set bit over `(px, py)`. -/
def rowsCover (x y : Nat) (bs : List Byte) (px : Fin 64) (py : Fin 32) : Bool :=
  match bs with
  | [] => false
  | b :: bs => (py == wrapY y && rowCovers x b (List.range' 0 8) px) || rowsCover x (y + 1) bs px py

theorem rowsCover_row {x y : Nat} {bs : List Byte} {px : Fin 64} {py : Fin 32}
    (h : rowsCover x y bs px py = true) : ∃ i < bs.length, py = wrapY (y + i) := by
  induction bs generalizing y with
  | nil => simp [rowsCover] at h
  | cons b bs ih =>
    rw [rowsCover, Bool.or_eq_true] at h
    rcases h with h | h
    · simp only [Bool.and_eq_true, beq_iff_eq] at h
      exact ⟨0, by simp, by simpa using h.1⟩
    · obtain ⟨i, hi, hp⟩ := ih h
      exact ⟨i + 1, by simpa using hi, by rw [hp]; congr 1; omega⟩

/-- A sprite of at most 32 rows toggles exactly the pixels under its set bits: no row is touched twice (R224). -/
theorem pixel_drawRows (k : Canvas) (x y : Nat) (bs : List Byte) (h : bs.length ≤ 32) (px : Fin 64)
    (py : Fin 32) :
    pixel (k.drawRows x y bs).fb px py = xor (pixel k.fb px py) (rowsCover x y bs px py) := by
  induction bs generalizing k y with
  | nil => simp [Canvas.drawRows, rowsCover]
  | cons b bs ih =>
    simp only [List.length_cons] at h
    rw [Canvas.drawRows, ih _ _ (by omega), pixel_drawCols _ _ _ _ _ _ (by omega), rowsCover]
    by_cases hy : py = wrapY y
    · have hrest : rowsCover x (y + 1) bs px py = false := by
        rw [Bool.eq_false_iff]
        intro hcon
        obtain ⟨i, hi, hp⟩ := rowsCover_row hcon
        have := wrapY_inj (y := y) (i := 0) (j := i + 1)
          (by rw [Nat.add_zero, ← hy, hp]; congr 1; omega) (by omega) (by omega)
        omega
      rw [hrest]; simp
    · have : (py == wrapY y) = false := by simpa using hy
      simp [this]

/-- A sprite reports a collision when some pixel under a set bit was set before it (R225). -/
theorem hit_drawRows (k : Canvas) (x y : Nat) (bs : List Byte) (h : bs.length ≤ 32) :
    (k.drawRows x y bs).hit = true ↔
      k.hit = true ∨ ∃ px py, rowsCover x y bs px py = true ∧ pixel k.fb px py = true := by
  induction bs generalizing k y with
  | nil => simp [Canvas.drawRows, rowsCover]
  | cons b bs ih =>
    simp only [List.length_cons] at h
    rw [Canvas.drawRows, ih _ _ (by omega), hit_drawCols _ _ _ _ _ _ (by omega), Bool.or_eq_true, or_assoc]
    refine or_congr_right ?_
    constructor
    · rintro (hc | ⟨px, py, hcov, hp⟩)
      · rw [List.any_eq_true] at hc
        obtain ⟨i, hi, hb⟩ := hc
        rw [Bool.and_eq_true] at hb
        refine ⟨_, _, ?_, hb.2⟩
        simp only [rowsCover, rowCovers, Bool.or_eq_true, Bool.and_eq_true, List.any_eq_true, beq_iff_eq]
        exact .inl ⟨by trivial, i, hi, hb.1, by trivial⟩
      · rw [pixel_drawCols _ _ _ _ _ _ (by omega)] at hp
        refine ⟨px, py, by rw [rowsCover, hcov, Bool.or_true], ?_⟩
        obtain ⟨i, hi, hpy⟩ := rowsCover_row hcov
        have : (py == wrapY y) = false := by
          rw [beq_eq_false_iff_ne]
          intro hy
          have := wrapY_inj (y := y) (i := 0) (j := i + 1)
            (by rw [Nat.add_zero, ← hy, hpy]; congr 1; omega) (by omega) (by omega)
          omega
        simpa [this] using hp
    · rintro ⟨px, py, hcov, hp⟩
      rw [rowsCover, Bool.or_eq_true] at hcov
      rcases hcov with hcov | hcov
      · simp only [rowCovers, Bool.and_eq_true, List.any_eq_true, beq_iff_eq] at hcov
        obtain ⟨rfl, i, hi, hb, rfl⟩ := hcov
        exact .inl (List.any_eq_true.mpr ⟨i, hi, by simp [hb, hp]⟩)
      · refine .inr ⟨px, py, hcov, ?_⟩
        rw [pixel_drawCols _ _ _ _ _ _ (by omega)]
        obtain ⟨i, hi, hpy⟩ := rowsCover_row hcov
        have : (py == wrapY y) = false := by
          rw [beq_eq_false_iff_ne]
          intro hy
          have := wrapY_inj (y := y) (i := 0) (j := i + 1)
            (by rw [Nat.add_zero, ← hy, hpy]; congr 1; omega) (by omega) (by omega)
          omega
        simp [this, hp]

end Sys2Proof.Machine
end

