-- ==== Sys2Proof/Laws/Encoding.lean ====
section
/-! SUPPORT. The fields of a packed word: what the decoder's field extraction gives on each format of R93, and a
word as the sum of its fields. -/

namespace Sys2Proof

theorem toNat_packNNN {c : Nat} (nnn : Addr) (hc : c < 16) : (packNNN c nnn).toNat = c * 4096 + nnn.toNat := by
  have := nnn.isLt
  simp only [packNNN, BitVec.toNat_ofNat]; omega

theorem toNat_packXKK {c : Nat} (x : Reg) (kk : Byte) (hc : c < 16) :
    (packXKK c x kk).toNat = c * 4096 + x.val * 256 + kk.toNat := by
  have := kk.isLt
  simp only [packXKK, BitVec.toNat_ofNat]; omega

theorem toNat_packXYD {c : Nat} (x y : Reg) (d : Fin 16) (hc : c < 16) :
    (packXYD c x y d).toNat = c * 4096 + x.val * 256 + y.val * 16 + d.val := by
  simp only [packXYD, BitVec.toNat_ofNat]; omega

/-! ## Format NNN -/

@[simp] theorem fields_packNNN_c {c : Nat} (nnn : Addr) (hc : c < 16) : (fields (packNNN c nnn)).c = c := by
  have := nnn.isLt
  simp only [fields, bits, toNat_packNNN nnn hc]; omega

@[simp] theorem fields_packNNN_nnn {c : Nat} (nnn : Addr) (hc : c < 16) :
    (fields (packNNN c nnn)).nnn = nnn := by
  have := nnn.isLt
  apply BitVec.eq_of_toNat_eq
  simp only [fields, bits, toNat_packNNN nnn hc, BitVec.toNat_ofNat]; omega

/-! ## Formats XKK and XOP -/

@[simp] theorem fields_packXKK_c {c : Nat} (x : Reg) (kk : Byte) (hc : c < 16) :
    (fields (packXKK c x kk)).c = c := by
  have := kk.isLt
  simp only [fields, bits, toNat_packXKK x kk hc]; omega

@[simp] theorem fields_packXKK_x {c : Nat} (x : Reg) (kk : Byte) (hc : c < 16) :
    (fields (packXKK c x kk)).x = x := by
  have := kk.isLt
  apply Fin.ext
  simp only [fields, bits, toNat_packXKK x kk hc, Fin.ofNat]; omega

@[simp] theorem fields_packXKK_kk {c : Nat} (x : Reg) (kk : Byte) (hc : c < 16) :
    (fields (packXKK c x kk)).kk = kk := by
  have := kk.isLt
  apply BitVec.eq_of_toNat_eq
  simp only [fields, bits, toNat_packXKK x kk hc, BitVec.toNat_ofNat]; omega

/-! ## Formats XYD and XYN -/

@[simp] theorem fields_packXYD_c {c : Nat} (x y : Reg) (d : Fin 16) (hc : c < 16) :
    (fields (packXYD c x y d)).c = c := by
  simp only [fields, bits, toNat_packXYD x y d hc]; omega

@[simp] theorem fields_packXYD_x {c : Nat} (x y : Reg) (d : Fin 16) (hc : c < 16) :
    (fields (packXYD c x y d)).x = x := by
  apply Fin.ext
  simp only [fields, bits, toNat_packXYD x y d hc, Fin.ofNat]; omega

@[simp] theorem fields_packXYD_y {c : Nat} (x y : Reg) (d : Fin 16) (hc : c < 16) :
    (fields (packXYD c x y d)).y = y := by
  apply Fin.ext
  simp only [fields, bits, toNat_packXYD x y d hc, Fin.ofNat]; omega

@[simp] theorem fields_packXYD_d {c : Nat} (x y : Reg) (d : Fin 16) (hc : c < 16) :
    (fields (packXYD c x y d)).d = d := by
  apply Fin.ext
  simp only [fields, bits, toNat_packXYD x y d hc, Fin.ofNat]; omega

/-! ## A word is its fields -/

theorem packNNN_fields (w : Word) : packNNN (fields w).c (fields w).nnn = w := by
  have := w.isLt
  apply BitVec.eq_of_toNat_eq
  rw [toNat_packNNN _ (by simp only [fields, bits]; omega)]
  simp only [fields, bits, BitVec.toNat_ofNat]; omega

theorem packXKK_fields (w : Word) : packXKK (fields w).c (fields w).x (fields w).kk = w := by
  have := w.isLt
  apply BitVec.eq_of_toNat_eq
  rw [toNat_packXKK _ _ (by simp only [fields, bits]; omega)]
  simp only [fields, bits, BitVec.toNat_ofNat, Fin.ofNat]; omega

theorem packXYD_fields (w : Word) : packXYD (fields w).c (fields w).x (fields w).y (fields w).d = w := by
  have := w.isLt
  apply BitVec.eq_of_toNat_eq
  rw [toNat_packXYD _ _ _ (by simp only [fields, bits]; omega)]
  simp only [fields, bits, Fin.ofNat]; omega

/-- The family is a nibble. -/
theorem fields_c_lt (w : Word) : (fields w).c < 16 := by simp only [fields, bits]; omega

/-! ## The masks of the opcode map (R94) -/

theorem toNat_and_F000 (w : Word) : (w &&& 0xF000#16).toNat = (fields w).c * 4096 := by
  have hw := w.isLt
  have h : w &&& 0xF000#16 = (w >>> 12) <<< 12 := by
    ext i hi
    interval_cases i <;> simp
  rw [h]
  simp only [fields, bits, BitVec.toNat_shiftLeft, BitVec.toNat_ushiftRight, Nat.shiftRight_eq_div_pow,
    Nat.shiftLeft_eq]
  omega

theorem toNat_and_F00F (w : Word) : (w &&& 0xF00F#16).toNat = (fields w).c * 4096 + (fields w).d.val := by
  have hw := w.isLt
  have h : w &&& 0xF00F#16 = (w >>> 12) <<< 12 + (w <<< 12) >>> 12 := by
    rw [BitVec.add_eq_or_of_and_eq_zero]
    · ext i hi
      interval_cases i <;> simp
    · ext i hi
      interval_cases i <;> simp
  rw [h]
  simp only [fields, bits, BitVec.toNat_add, BitVec.toNat_shiftLeft, BitVec.toNat_ushiftRight,
    Nat.shiftRight_eq_div_pow, Nat.shiftLeft_eq, Fin.ofNat]
  omega

theorem toNat_and_F0FF (w : Word) : (w &&& 0xF0FF#16).toNat = (fields w).c * 4096 + (fields w).kk.toNat := by
  have hw := w.isLt
  have h : w &&& 0xF0FF#16 = (w >>> 12) <<< 12 + (w <<< 8) >>> 8 := by
    rw [BitVec.add_eq_or_of_and_eq_zero]
    · ext i hi
      interval_cases i <;> simp
    · ext i hi
      interval_cases i <;> simp
  rw [h]
  simp only [fields, bits, BitVec.toNat_add, BitVec.toNat_shiftLeft, BitVec.toNat_ushiftRight,
    Nat.shiftRight_eq_div_pow, Nat.shiftLeft_eq, BitVec.toNat_ofNat]
  omega

theorem and_FFFF (w : Word) : w &&& 0xFFFF#16 = w := by
  rw [show (0xFFFF#16 : Word) = BitVec.allOnes 16 from rfl, BitVec.and_allOnes]

/-- A row selects a word exactly when the masked number is the row's. -/
theorem selects_iff (r : OpcodeRow) (w : Word) :
    r.selects w = true ↔ (w &&& r.mask).toNat = r.value.toNat := by
  rw [OpcodeRow.selects, beq_iff_eq, BitVec.toNat_inj]

/-! ## Bytes -/

/-- A word's two bytes, joined, are the word (R62). -/
@[simp] theorem joinBytes_hiByte_loByte (w : Word) : joinBytes (hiByte w) (loByte w) = w := by
  have := w.isLt
  apply BitVec.eq_of_toNat_eq
  simp only [joinBytes, hiByte, loByte, bits, BitVec.toNat_ofNat]; omega

/-- `hi ++ lo = hi * 256 + lo` (R12). -/
theorem toNat_joinBytes (hi lo : Byte) : (joinBytes hi lo).toNat = hi.toNat * 256 + lo.toNat := by
  have := hi.isLt
  have := lo.isLt
  simp only [joinBytes, BitVec.toNat_ofNat]; omega

end Sys2Proof
end

