-- ==== Sys2Proof/Laws/PerInstr.lean ====
section
/-! SUPPORT. Statements about every instruction as syntax, one lemma a constructor. -/

namespace Sys2Proof.Laws.OperandsFit

/-- Every operand of the instruction fits its field (R102). -/
def Statement (i : Instr) : Prop := i.wellFormed = true

theorem cls : Statement .cls := rfl

theorem ret : Statement .ret := rfl

theorem jp (nnn : Addr) : Statement (.jp nnn) := by
  simp [Statement, Instr.wellFormed, Instr.operands, Operand.fits, nnn.isLt]

theorem call (nnn : Addr) : Statement (.call nnn) := by
  simp [Statement, Instr.wellFormed, Instr.operands, Operand.fits, nnn.isLt]

theorem seImm (x : Reg) (kk : Byte) : Statement (.seImm x kk) := by
  simp [Statement, Instr.wellFormed, Instr.operands, Operand.fits, x.isLt, kk.isLt]

theorem sneImm (x : Reg) (kk : Byte) : Statement (.sneImm x kk) := by
  simp [Statement, Instr.wellFormed, Instr.operands, Operand.fits, x.isLt, kk.isLt]

theorem seReg (x y : Reg) : Statement (.seReg x y) := by
  simp [Statement, Instr.wellFormed, Instr.operands, Operand.fits, x.isLt, y.isLt]

theorem ldImm (x : Reg) (kk : Byte) : Statement (.ldImm x kk) := by
  simp [Statement, Instr.wellFormed, Instr.operands, Operand.fits, x.isLt, kk.isLt]

theorem addImm (x : Reg) (kk : Byte) : Statement (.addImm x kk) := by
  simp [Statement, Instr.wellFormed, Instr.operands, Operand.fits, x.isLt, kk.isLt]

theorem ldReg (x y : Reg) : Statement (.ldReg x y) := by
  simp [Statement, Instr.wellFormed, Instr.operands, Operand.fits, x.isLt, y.isLt]

theorem orReg (x y : Reg) : Statement (.orReg x y) := by
  simp [Statement, Instr.wellFormed, Instr.operands, Operand.fits, x.isLt, y.isLt]

theorem andReg (x y : Reg) : Statement (.andReg x y) := by
  simp [Statement, Instr.wellFormed, Instr.operands, Operand.fits, x.isLt, y.isLt]

theorem xorReg (x y : Reg) : Statement (.xorReg x y) := by
  simp [Statement, Instr.wellFormed, Instr.operands, Operand.fits, x.isLt, y.isLt]

theorem addReg (x y : Reg) : Statement (.addReg x y) := by
  simp [Statement, Instr.wellFormed, Instr.operands, Operand.fits, x.isLt, y.isLt]

theorem subReg (x y : Reg) : Statement (.subReg x y) := by
  simp [Statement, Instr.wellFormed, Instr.operands, Operand.fits, x.isLt, y.isLt]

theorem shr (x y : Reg) : Statement (.shr x y) := by
  simp [Statement, Instr.wellFormed, Instr.operands, Operand.fits, x.isLt, y.isLt]

theorem subnReg (x y : Reg) : Statement (.subnReg x y) := by
  simp [Statement, Instr.wellFormed, Instr.operands, Operand.fits, x.isLt, y.isLt]

theorem shl (x y : Reg) : Statement (.shl x y) := by
  simp [Statement, Instr.wellFormed, Instr.operands, Operand.fits, x.isLt, y.isLt]

theorem sneReg (x y : Reg) : Statement (.sneReg x y) := by
  simp [Statement, Instr.wellFormed, Instr.operands, Operand.fits, x.isLt, y.isLt]

theorem ldI (nnn : Addr) : Statement (.ldI nnn) := by
  simp [Statement, Instr.wellFormed, Instr.operands, Operand.fits, nnn.isLt]

theorem jpV0 (nnn : Addr) : Statement (.jpV0 nnn) := by
  simp [Statement, Instr.wellFormed, Instr.operands, Operand.fits, nnn.isLt]

theorem rnd (x : Reg) (kk : Byte) : Statement (.rnd x kk) := by
  simp [Statement, Instr.wellFormed, Instr.operands, Operand.fits, x.isLt, kk.isLt]

theorem drw (x y : Reg) (n : Fin 16) : Statement (.drw x y n) := by
  simp [Statement, Instr.wellFormed, Instr.operands, Operand.fits, x.isLt, y.isLt, n.isLt]

theorem skp (x : Reg) : Statement (.skp x) := by
  simp [Statement, Instr.wellFormed, Instr.operands, Operand.fits, x.isLt]

theorem sknp (x : Reg) : Statement (.sknp x) := by
  simp [Statement, Instr.wellFormed, Instr.operands, Operand.fits, x.isLt]

theorem ldVDt (x : Reg) : Statement (.ldVDt x) := by
  simp [Statement, Instr.wellFormed, Instr.operands, Operand.fits, x.isLt]

theorem ldVK (x : Reg) : Statement (.ldVK x) := by
  simp [Statement, Instr.wellFormed, Instr.operands, Operand.fits, x.isLt]

theorem ldDtV (x : Reg) : Statement (.ldDtV x) := by
  simp [Statement, Instr.wellFormed, Instr.operands, Operand.fits, x.isLt]

theorem ldStV (x : Reg) : Statement (.ldStV x) := by
  simp [Statement, Instr.wellFormed, Instr.operands, Operand.fits, x.isLt]

theorem addI (x : Reg) : Statement (.addI x) := by
  simp [Statement, Instr.wellFormed, Instr.operands, Operand.fits, x.isLt]

theorem ldF (x : Reg) : Statement (.ldF x) := by
  simp [Statement, Instr.wellFormed, Instr.operands, Operand.fits, x.isLt]

theorem ldB (x : Reg) : Statement (.ldB x) := by
  simp [Statement, Instr.wellFormed, Instr.operands, Operand.fits, x.isLt]

theorem ldMemV (x : Reg) : Statement (.ldMemV x) := by
  simp [Statement, Instr.wellFormed, Instr.operands, Operand.fits, x.isLt]

theorem ldVMem (x : Reg) : Statement (.ldVMem x) := by
  simp [Statement, Instr.wellFormed, Instr.operands, Operand.fits, x.isLt]

end Sys2Proof.Laws.OperandsFit
end

