-- ==== Sys2Proof/Tests/Slice0.lean ====
section
/-! SUPPORT. The model's own tests. Expected results are the spec's: the vectors T<n> and L1.<n> of
spec/95_test_vectors.md, the worked examples of the rules, and words written out bit by bit from 30_encoding.md
R93 and R94. The witness_ theorems show, for each statement with hypotheses, a state and operands that meet them
together, at the boundary of their range where they have one. -/

namespace Sys2Proof.Tests

open Sys2Proof.Machine

/-! ## Helpers -/

/-- The reset state about to run the word `w` at 0x200, with the step's inputs `ticks` and `rnd` named. -/
def start (w : Nat) (ticks : Nat := 0) (rnd : Byte := 0) : State :=
  State.withFetchWord { State.reset with inputs := [⟨ticks, rnd⟩] } 16 w

/-- The state after one step. -/
def after (s : State) : State := match step s with | .next t => t | _ => s

/-- The state after one step under other parameters. -/
def afterUnder (p : Config.Params) (s : State) : State := match stepUnder p s with | .next t => t | _ => s

/-- The state after executing one instruction. -/
def ran (i : Instr) (s : State) : State := match exec i s with | .next t => t | _ => s

/-- The state after executing one instruction under other parameters. -/
def ranUnder (p : Config.Params) (i : Instr) (s : State) : State :=
  match execUnder p i s with | .next t => t | _ => s

/-- A state with two registers set. -/
def regs2 (s : State) (x : Reg) (a : Byte) (y : Reg) (b : Byte) : State := (s.setReg x a).setReg y b

/-- A state with bytes in memory. -/
def withBytes (s : State) (a : Nat) (bs : List Byte) : State := s.setMem (s.mem.writeSeq a bs)

/-- A state with the keys of a list pressed. -/
def withKeys (s : State) (ks : List Nat) : State :=
  { s with keys := ks.foldl (fun v k => v.setIfInBounds k true) (Vector.replicate 16 false) }

/-- A state with pixels set. -/
def withPixels (s : State) (ps : List (Nat × Nat)) : State :=
  s.setFb (ps.foldl (fun fb q => setPixel fb (wrapX q.1) (wrapY q.2) true) s.fb)

/-- A state with `pc` and `sp`, and 0x206 in the stack's first entry. -/
def atPc (s : State) (pc : Word) (sp : Fin 17) : State :=
  { s with pc := pc, sp := sp, stack := s.stack.set 0 0x206 }

/-- The parameters with the shifts' other source. -/
def shiftVy : Config.Params := { Config.params with shiftSource := .vy }

/-- The parameters with inclusive blocks. -/
def inclusive : Config.Params := { Config.params with dumpInclusive := true }

/-- The parameters with the halt policy. -/
def halting : Config.Params := { Config.params with unknownOpcodeHalts := true }

/-! ## Well-formedness: an ill-formed operand for each check (R102) -/

theorem test_reg_16_refused : Operand.fits (.reg 16) = false := by decide
theorem test_rows_16_refused : Operand.fits (.rows 16) = false := by decide
theorem test_imm_256_refused : Operand.fits (.imm 256) = false := by decide
theorem test_addr_0x1000_refused : Operand.fits (.addr 0x1000) = false := by decide
theorem test_largest_operands_fit :
    [Operand.reg 15, .rows 15, .imm 255, .addr 0xFFF].all Operand.fits = true := by decide

/-! ## Decoding: each constructor's word, written out bit by bit from R93 and R94 -/

theorem test_decode_fix :
    decode 0b0000000011100000#16 = .ok .cls ∧ decode 0b0000000011101110#16 = .ok .ret := by decide
theorem test_decode_nnn :
    decode 0b0001101010111101#16 = .ok (.jp 0xABD) ∧ decode 0b0010001000010000#16 = .ok (.call 0x210) ∧
    decode 0b1010001100000000#16 = .ok (.ldI 0x300) ∧ decode 0b1011111111111111#16 = .ok (.jpV0 0xFFF) := by
  decide
theorem test_decode_xkk :
    decode 0b0011000100000000#16 = .ok (.seImm 1 0x00) ∧ decode 0b0100001000000101#16 = .ok (.sneImm 2 0x05) ∧
    decode 0b0110000010011111#16 = .ok (.ldImm 0 0x9F) ∧ decode 0b0111000100000010#16 = .ok (.addImm 1 0x02) ∧
    decode 0b1100001100001111#16 = .ok (.rnd 3 0x0F) := by decide
theorem test_decode_xyd_skips :
    decode 0b0101001101000000#16 = .ok (.seReg 3 4) ∧ decode 0b1001001101000000#16 = .ok (.sneReg 3 4) := by
  decide
theorem test_decode_xyd_moves :
    decode 0b1000000100100000#16 = .ok (.ldReg 1 2) ∧ decode 0b1000000100100001#16 = .ok (.orReg 1 2) ∧
    decode 0b1000000100100010#16 = .ok (.andReg 1 2) ∧ decode 0b1000000100100011#16 = .ok (.xorReg 1 2) := by
  decide
theorem test_decode_xyd_flags :
    decode 0b1000000100100100#16 = .ok (.addReg 1 2) ∧ decode 0b1000000100100101#16 = .ok (.subReg 1 2) ∧
    decode 0b1000000100100110#16 = .ok (.shr 1 2) ∧ decode 0b1000000100100111#16 = .ok (.subnReg 1 2) ∧
    decode 0b1000000100101110#16 = .ok (.shl 1 2) := by decide
theorem test_decode_xyn : decode 0b1101000100100101#16 = .ok (.drw 1 2 5) := by decide
theorem test_decode_keys :
    decode 0b1110010110011110#16 = .ok (.skp 5) ∧ decode 0b1110010110100001#16 = .ok (.sknp 5) := by decide
theorem test_decode_misc_timers :
    decode 0b1111000100000111#16 = .ok (.ldVDt 1) ∧ decode 0b1111000000001010#16 = .ok (.ldVK 0) ∧
    decode 0b1111000000010101#16 = .ok (.ldDtV 0) ∧ decode 0b1111010000011000#16 = .ok (.ldStV 4) := by decide
theorem test_decode_misc_index :
    decode 0b1111001000011110#16 = .ok (.addI 2) ∧ decode 0b1111000000101001#16 = .ok (.ldF 0) ∧
    decode 0b1111000000110011#16 = .ok (.ldB 0) ∧ decode 0b1111001101010101#16 = .ok (.ldMemV 3) ∧
    decode 0b1111001001100101#16 = .ok (.ldVMem 2) := by decide
/-- 95_test_vectors.md section 1, and R98's spaces. -/
theorem test_decode_unknown :
    decode 0x00E1 = .error (.unknownOpcode .sys 0x00E1) ∧ decode 0x0000 = .error (.unknownOpcode .sys 0) ∧
    decode 0x5341 = .error (.unknownOpcode .five 0x5341) ∧
    decode 0x8128 = .error (.unknownOpcode .eight 0x8128) ∧
    decode 0x9341 = .error (.unknownOpcode .nine 0x9341) ∧
    decode 0xE19F = .error (.unknownOpcode .keys 0xE19F) ∧
    decode 0xFFFF = .error (.unknownOpcode .misc 0xFFFF) := by decide
/-- R102's examples. -/
theorem test_encode_examples : encode (.addReg 1 2) = 0x8124 ∧ encode (.drw 1 2 5) = 0xD125 := by decide
theorem test_decode_bytes_big_endian :
    decodeBytes [0x81, 0x24, 0xFF] = .ok (.addReg 1 2, [0xFF]) ∧ decodeBytes [0x81] = .error .truncated := by
  decide

/-! ## Reset and the host operations -/

/-- R39, R67: glyph 0 starts with F0 and glyph F ends with 80; 0x050 on is 0; pc is 0x200. -/
theorem test_reset_memory :
    State.reset.mem.read 0x000 = some 0xF0 ∧ State.reset.mem.read 0x04F = some 0x80 ∧
    State.reset.mem.read 0x050 = some 0 ∧ State.reset.mem.read 0xFFF = some 0 ∧
    State.reset.mem.read 0x1000 = none ∧ State.reset.pc = 0x200 ∧ State.reset.mem.wf = true := by decide
/-- L1.13. -/
theorem test_load_three_bytes :
    (hostLoad [55, 55, 55] State.reset).1.mem = [(0x200, 55), (0x201, 55), (0x202, 55)] := by decide
/-- L1.14. -/
theorem test_load_too_large :
    (hostLoad (List.replicate 3585 0) State.reset).2 = .romTooLarge 3585 := by
  rw [hostLoad, if_pos (by rw [List.length_replicate]; decide), List.length_replicate]
/-- T84. -/
theorem test_reset_clears_the_latch :
    (hostReset Config.params (after (start 0x00EE))).fault = none := by decide
/-- R263: the latch holds the cause, the pc and the word. -/
theorem test_fault_record :
    (after (start 0x00EE)).fault = some ⟨.stackUnderflow, 0x200, some 0x00EE⟩ := by decide

/-! ## Control flow (section 3.1) -/

/-- T2. -/
theorem test_ret : (after (atPc (start 0x00EE) 0x200 1)).pc = 0x206 ∧
    (after (atPc (start 0x00EE) 0x200 1)).sp = 0 := by decide
/-- T3, T82: no tick on a fault. -/
theorem test_ret_empty : (after (start 0x00EE 1)).status =
      some (.fault ⟨.stackUnderflow, 0x200, some 0x00EE⟩) ∧
    (after ((start 0x00EE 1).setDT 4)).DT = 4 := by decide
/-- T4. -/
theorem test_jp : (after (start 0x1ABD)).pc = 0xABD := by decide
/-- T5. -/
theorem test_call : (after (start 0x2210)).pc = 0x210 ∧ (after (start 0x2210)).sp = 1 ∧
    (after (start 0x2210)).stack[0] = 0x202 := by decide
/-- T6. -/
theorem test_call_full : (after (atPc (start 0x2210) 0x200 16)).fault =
      some ⟨.stackOverflow, 0x200, some 0x2210⟩ ∧ (after (atPc (start 0x2210) 0x200 16)).sp = 16 := by decide
/-- T7, T8. -/
theorem test_se_imm : (after (start 0x3100)).pc = 0x204 ∧ (after ((start 0x3100).setReg 1 1)).pc = 0x202 := by
  decide
/-- T9, T10. -/
theorem test_sne_imm : (after ((start 0x4205).setReg 2 5)).pc = 0x202 ∧
    (after ((start 0x4205).setReg 2 6)).pc = 0x204 := by decide
/-- T11, and R157's example with unequal registers. -/
theorem test_se_reg : (after ((start 0x5330).setReg 3 0x77)).pc = 0x204 ∧
    (after (regs2 (start 0x5340) 3 0x10 4 0x11)).pc = 0x202 := by decide
/-- T13, and R158's example. -/
theorem test_sne_reg : (after ((start 0x9330).setReg 3 9)).pc = 0x202 ∧
    (after (regs2 (start 0x9340) 3 1 4 2)).pc = 0x204 := by decide
/-- T14: a taken skip at 0xFFC. -/
theorem test_skip_past_memory :
    (after (withBytes { start 0 with pc := 0xFFC } 0xFFC [0x30, 0x00])).pc = 0x1000 := by decide
/-- T15, T16. -/
theorem test_jp_v0 : (after ((start 0xB300).setReg 0 0x10)).pc = 0x310 ∧
    (after ((start 0xBFFF).setReg 0 0xFF)).pc = 0x10FE := by decide

/-! ## ALU (section 3.2) -/

/-- T17. -/
theorem test_ld_imm : (after (start 0x6F42)).reg VF = 0x42 := by decide
/-- T18, T19. -/
theorem test_add_imm : (after (regs2 (start 0x7102) 1 0xFF VF 7)).reg 1 = 0x01 ∧
    (after (regs2 (start 0x7102) 1 0xFF VF 7)).reg VF = 7 ∧
    (after ((start 0x7F01).setReg VF 0xFF)).reg VF = 0 := by decide
/-- T20. -/
theorem test_ld_reg : (after ((start 0x8120).setReg 2 7)).reg 1 = 7 := by decide
/-- T21: VF kept. -/
theorem test_or : (after (regs2 ((start 0x8121).setReg VF 5) 1 0x0C 2 0x0A)).reg 1 = 0x0E ∧
    (after (regs2 ((start 0x8121).setReg VF 5) 1 0x0C 2 0x0A)).reg VF = 5 := by decide
/-- T22. -/
theorem test_and : (after (regs2 (start 0x8122) 1 0x0C 2 0x0A)).reg 1 = 0x08 := by decide
/-- T23, and R176's example. -/
theorem test_xor : (after ((start 0x8113).setReg 1 0x5A)).reg 1 = 0 ∧
    (after (regs2 (start 0x8123) 1 0x0C 2 0x0A)).reg 1 = 0x06 := by decide
/-- T24, T27. -/
theorem test_add_reg : (after (regs2 (start 0x8124) 1 255 2 2)).reg 1 = 1 ∧
    (after (regs2 (start 0x8124) 1 255 2 2)).reg VF = 1 ∧
    (after (regs2 ((start 0x8124).setReg VF 1) 1 0x7F 2 0x80)).reg VF = 0 := by decide
/-- T25, T26: doubling, and the flag stays when x = y = F. -/
theorem test_add_reg_same : (after ((start 0x8334).setReg 3 0x80)).reg 3 = 0 ∧
    (after ((start 0x8FF4).setReg VF 0x90)).reg VF = 1 := by decide
/-- T28, T30. -/
theorem test_sub : (after (regs2 (start 0x8125) 1 4 2 5)).reg 1 = 255 ∧
    (after (regs2 (start 0x8125) 1 4 2 5)).reg VF = 0 ∧
    (after (regs2 ((start 0x8125).setReg VF 1) 1 9 2 9)).reg VF = 0 := by decide
/-- T29. -/
theorem test_sub_no_borrow : (after (regs2 (start 0x8125) 1 7 2 5)).reg 1 = 2 ∧
    (after (regs2 (start 0x8125) 1 7 2 5)).reg VF = 1 := by decide
/-- T31, T33, T35. -/
theorem test_shr : (after ((start 0x8106).setReg 1 5)).reg 1 = 2 ∧ (after ((start 0x8106).setReg 1 5)).reg VF = 1 ∧
    (after (regs2 (start 0x8126) 1 4 2 0xFF)).reg 1 = 2 ∧ (after ((start 0x8F06).setReg VF 2)).reg VF = 0 := by
  decide
/-- T34. -/
theorem test_shr_vy : (afterUnder shiftVy (regs2 (start 0x8126) 1 4 2 0xFF)).reg 1 = 0x7F ∧
    (afterUnder shiftVy (regs2 (start 0x8126) 1 4 2 0xFF)).reg VF = 1 := by decide
/-- T36, T38. -/
theorem test_subn : (after (regs2 (start 0x8127) 1 5 2 4)).reg 1 = 0xFF ∧
    (after (regs2 (start 0x8127) 1 5 2 4)).reg VF = 0 ∧
    (after (regs2 ((start 0x8127).setReg VF 1) 1 4 2 4)).reg VF = 0 := by decide
/-- T37. -/
theorem test_subn_no_borrow : (after (regs2 (start 0x8127) 1 4 2 7)).reg 1 = 3 ∧
    (after (regs2 (start 0x8127) 1 4 2 7)).reg VF = 1 := by decide
/-- T39, T40. -/
theorem test_shl : (after ((start 0x810E).setReg 1 0x81)).reg 1 = 0x02 ∧
    (after ((start 0x810E).setReg 1 0x81)).reg VF = 1 ∧
    (after ((start 0x810E).setReg 1 0x7F)).reg 1 = 0xFE ∧ (after ((start 0x810E).setReg 1 0x7F)).reg VF = 0 := by
  decide
/-- T42, T43. -/
theorem test_rnd : (after (start 0xC30F 0 0xAB)).reg 3 = 0x0B ∧ (after (start 0xC300 0 0xFF)).reg 3 = 0 := by
  decide

/-! ## Index and memory (section 3.3) -/

/-- T44. -/
theorem test_ld_i : (after (start 0xA300)).I = 0x300 := by decide
/-- T46, T47. -/
theorem test_add_i : (after (regs2 ((start 0xF21E).setI 0x0FFF) 2 1 VF 3)).I = 0x1000 ∧
    (after (regs2 ((start 0xF21E).setI 0x0FFF) 2 1 VF 3)).reg VF = 3 ∧
    (after (((start 0xF21E).setI 0xFFFF).setReg 2 1)).I = 0 := by decide
/-- T48, T49, T50. -/
theorem test_ld_f : (after ((start 0xF029).setReg 0 0x0A)).I = 0x32 ∧
    (after ((start 0xF029).setReg 0 0x10)).I = 0x50 ∧ (after ((start 0xF029).setReg 0 0xFF)).I = 0x4FB := by
  decide
/-- T51. -/
theorem test_bcd : (after (((start 0xF033).setReg 0 159).setI 0x300)).mem.readSeq 0x300 3 = [1, 5, 9] := by
  decide
/-- T54. -/
theorem test_bcd_past_memory : (after (((start 0xF033).setReg 0 1).setI 0xFFE)).fault =
      some ⟨.memoryOutOfRange 0x1000, 0x200, some 0xF033⟩ ∧
    (after (((start 0xF033).setReg 0 1).setI 0xFFE)).mem.readSeq 0xFFE 2 = [0, 0] := by decide
/-- T55, T57. -/
theorem test_dump : (after (((start 0xF355).setRegs [1, 2, 3, 4]).setI 0x400)).mem.readSeq 0x400 4 = [1, 2, 3, 0] ∧
    (after (((start 0xF055).setReg 0 9).setI 0x400)).mem.readSeq 0x400 1 = [0] := by decide
/-- T56. -/
theorem test_dump_inclusive :
    (afterUnder inclusive (((start 0xF355).setRegs [1, 2, 3, 4]).setI 0x400)).mem.readSeq 0x400 4 =
      [1, 2, 3, 4] := by decide
/-- T59. -/
theorem test_load_regs :
    (after (withBytes (((start 0xF265).setReg 2 0xEE).setI 0x300) 0x300 [1, 5, 9])).V.toList.take 3 =
      [1, 5, 0xEE] := by decide
/-- T60. -/
theorem test_load_regs_inclusive :
    (afterUnder inclusive (withBytes ((start 0xFF65).setI 0x300) 0x30F [0x77])).reg VF = 0x77 := by decide

/-! ## Display (section 3.4) -/

/-- T1. -/
theorem test_cls : pixel (after (withPixels (start 0x00E0) [(5, 5), (63, 31)])).fb 5 5 = false ∧
    pixel (after (withPixels (start 0x00E0) [(5, 5), (63, 31)])).fb 63 31 = false := by decide
/-- T63: one collision. -/
theorem test_drw_collision :
    let t := after (withPixels (withBytes (regs2 ((start 0xD121).setI 0x300) 1 10 2 10) 0x300 [0x80])
      [(10, 10), (11, 10)])
    pixel t.fb 10 10 = false ∧ pixel t.fb 11 10 = true ∧ t.reg VF = 1 := by decide
/-- P3, step 5: glyph A at (62, 31), wrapped on both axes. -/
theorem test_drw_wraps :
    let t := after (regs2 ((start 0xD125).setI 0x32) 1 62 2 31)
    [(62, 31), (63, 31), (0, 31), (1, 31), (62, 0), (1, 0), (62, 1), (63, 1), (0, 1), (1, 1), (62, 2), (1, 2),
      (62, 3), (1, 3)].all (fun q => pixel t.fb (wrapX q.1) (wrapY q.2)) = true ∧
    ((readPixels t).filter (· == 1)).length = 14 ∧ t.reg VF = 0 := by decide +kernel

/-! ## Keys and timers (section 3.5) -/

/-- T66, T67. -/
theorem test_skp : (after (withKeys ((start 0xE59E).setReg 5 3) [3])).pc = 0x204 ∧
    (after ((start 0xE59E).setReg 5 3)).pc = 0x202 := by decide
/-- T69. -/
theorem test_skp_index_16 : (after ((start 0xE59E).setReg 5 0x10)).fault =
    some ⟨.keyIndexOutOfRange 0x10, 0x200, some 0xE59E⟩ := by decide
/-- T68, and R242 with the key pressed. -/
theorem test_sknp : (after ((start 0xE5A1).setReg 5 3)).pc = 0x204 ∧
    (after (withKeys ((start 0xE5A1).setReg 5 3) [3])).pc = 0x202 := by decide
/-- T70: the read comes before the tick. -/
theorem test_ld_v_dt : (after ((start 0xF107 1).setDT 2)).reg 1 = 2 ∧ (after ((start 0xF107 1).setDT 2)).DT = 1 := by
  decide
/-- T71: waiting, and the timer ticks. -/
theorem test_wait_key : (after ((start 0xF00A 1).setDT 5)).pc = 0x200 ∧
    (after ((start 0xF00A 1).setDT 5)).DT = 4 ∧ (after ((start 0xF00A 1).setDT 5)).status = some .ok := by decide
/-- T72. -/
theorem test_key_found : (after (withKeys (start 0xF00A) [3, 7])).reg 0 = 3 ∧
    (after (withKeys (start 0xF00A) [3, 7])).pc = 0x202 := by decide
/-- T73: the load is lowered by its own step's tick. -/
theorem test_ld_dt_v : (after ((start 0xF015 1).setReg 0 3)).DT = 2 := by decide
/-- T74, and T75's timers. -/
theorem test_ld_st_v : (after ((start 0xF418).setReg 4 0x3C)).ST = 0x3C ∧
    (after ((start 0x6000 1).setST 1)).ST = 0 ∧ (after ((start 0x6000 1).setST 1)).DT = 0 := by decide
/-- T76: several ticks saturate, under `max_ticks_per_step` = 3. -/
theorem test_three_ticks :
    let t := afterUnder { Config.params with maxTicksPerStep := some 3 } (((start 0x6000 3).setDT 2).setST 5)
    t.DT = 0 ∧ t.ST = 2 := by decide

/-! ## Dispatch and faults (section 3.6) -/

/-- T77, T78. -/
theorem test_fetch_limits :
    (after (withBytes { start 0 with pc := 0xFFE } 0xFFE [0x60, 0x01])).pc = 0x1000 ∧
    (after { start 0 with pc := 0xFFF }).fault = some ⟨.pcOutOfRange, 0xFFF, none⟩ := by decide
/-- T79, T81. -/
theorem test_unknown_reported : (after (start 0x0123)).status = some (.reported 0x200 0x0123) ∧
    (after (start 0x0123)).pc = 0x202 ∧ (after ((start 0xFFFF 1).setDT 4)).DT = 3 := by decide
/-- T80. -/
theorem test_unknown_halts : (afterUnder halting ((start 0x0123 1).setDT 4)).fault =
      some ⟨.unimplementedOpcode, 0x200, some 0x0123⟩ ∧ (afterUnder halting ((start 0x0123 1).setDT 4)).DT = 4 := by
  decide
/-- T83. -/
theorem test_halted : (after (after ((start 0x00EE 1).setDT 4))).status =
      some (.halted ⟨.stackUnderflow, 0x200, some 0x00EE⟩) ∧ (after (after ((start 0x00EE 1).setDT 4))).DT = 4 := by
  decide

/-! ## Witnesses: concrete states and operands that meet each statement's hypotheses together -/

theorem witness_EncodeOfDecodeIsTheWord : decode 0x812E = .ok (.shl 1 2) := by decide
theorem witness_NoTwoOpcodeRowsSelectOneWord :
    ∃ r ∈ opcodeMap, ∃ r' ∈ opcodeMap, r.selects 0x00EE = true ∧ r'.selects 0x00EE = true := by decide

/-- At `pc = 0xFFE`, an instruction that raises nothing. -/
theorem witness_StepRunsTheDecodedInstruction :
    let s := withBytes { start 0 with pc := 0xFFE } 0xFFE [0x1A, 0xBD]
    s.fault = none ∧ s.pc.toNat ≤ 0xFFE ∧ decode s.fetch = .ok (.jp 0xABD) ∧
      exec (.jp 0xABD) s = .next (ran (.jp 0xABD) s) ∧ (ran (.jp 0xABD) s).fault = none :=
  ⟨by decide, by decide, by decide, rfl, by decide⟩
/-- An instruction that raises a fault. -/
theorem witness_StepRunsTheDecodedInstruction_fault :
    let s := start 0x00EE
    s.fault = none ∧ s.pc.toNat ≤ 0xFFE ∧ decode s.fetch = .ok .ret ∧ exec .ret s = .next (ran .ret s) ∧
      (ran .ret s).fault = some ⟨.stackUnderflow, 0x200, some 0x00EE⟩ :=
  ⟨by decide, by decide, by decide, rfl, by decide⟩

theorem witness_HaltedStepChangesNothing :
    (after (start 0x00EE)).fault = some ⟨.stackUnderflow, 0x200, some 0x00EE⟩ := by decide
theorem witness_FetchOutOfRangeFaults :
    let s := { start 0 with pc := 0xFFF }
    s.fault = none ∧ 0xFFE < s.pc.toNat := by decide
theorem witness_FetchIsBigEndian : ({ start 0 with pc := 0xFFE } : State).pc.toNat ≤ 0xFFE := by decide
theorem witness_UnknownOpcodeIsReportedAndSkipped :
    (start 0x0123).fault = none ∧ (start 0x0123).pc.toNat ≤ 0xFFE ∧
      decode (start 0x0123).fetch = .error (.unknownOpcode .sys 0x0123) := by decide
theorem witness_UnknownOpcodeHaltsUnderTheHaltPolicy :
    halting.unknownOpcodeHalts = true ∧ (start 0x0123).fault = none ∧ (start 0x0123).pc.toNat ≤ 0xFFE ∧
      decode (start 0x0123).fetch = .error (.unknownOpcode .sys 0x0123) := by decide
theorem witness_FaultsArePrecise :
    stepUnder Config.params (start 0x00EE) = .next (after (start 0x00EE)) ∧ (start 0x00EE).fault = none ∧
      (after (start 0x00EE)).fault = some ⟨.stackUnderflow, 0x200, some 0x00EE⟩ :=
  ⟨rfl, by decide, by decide⟩
theorem witness_OnlyEightInstructionsCanFault : (Instr.ldVK 0).canFault = false := by decide
theorem witness_TicksComeAfterExecution :
    (∀ w ∈ [0xF115, 0xF118, 0xF107], (start w 1).fault = none ∧ (start w 1).pc.toNat ≤ 0xFFE) ∧
      decode (start 0xF115 1).fetch = .ok (.ldDtV 1) ∧ decode (start 0xF118 1).fetch = .ok (.ldStV 1) ∧
      decode (start 0xF107 1).fetch = .ok (.ldVDt 1) := by decide
theorem witness_TicksStayWithinTheBound : Config.params.maxTicksPerStep = some 1 := by decide
theorem witness_ResetGivesTheTablesValues : Config.params.resetRegs = .zero := by decide
theorem witness_LoadPlacesTheImageOrRefuses :
    (List.replicate 3584 (7 : Byte)).length ≤ 3584 ∧ 3584 < (List.replicate 3585 (7 : Byte)).length := by
  simp only [List.length_replicate]; decide
theorem witness_PlacedWordIsFetched :
    let s := { start 0 with pc := 0xFFE }
    s.fault = none ∧ s.pc.toNat ≤ 0xFFE := by decide

/-! ### Control flow -/

theorem witness_CallPushesAndJumpsOrOverflows :
    (atPc (start 0x2210) 0x200 15).sp.val < 16 ∧ (atPc (start 0x2210) 0x200 16).sp.val = 16 := by decide
theorem witness_RetPopsAndJumpsOrUnderflows :
    0 < (atPc (start 0x00EE) 0x200 1).sp.val ∧ 0 < (atPc (start 0x00EE) 0x200 16).sp.val ∧
      (atPc (start 0x00EE) 0x200 0).sp.val = 0 := by decide
theorem witness_CallThenReturnRestoresPcAndSp :
    let s := atPc (start 0x2210) 0xFFE 15
    let t := ran (.call 0x210) s
    let u := (t.setReg 1 7).advance
    exec (.call 0x210) s = .next t ∧ t.fault = none ∧ u.sp = t.sp ∧
      ∀ j : Fin 16, j.val < t.sp.val → u.stack[j] = t.stack[j] :=
  ⟨rfl, by decide, by decide, fun _ _ => rfl⟩

/-! ### ALU -/

theorem witness_AddThenSubRestoresVx :
    let s := regs2 (start 0x8124) 1 255 2 2
    (1 : Reg) ≠ VF ∧ (2 : Reg) ≠ VF ∧ exec (.addReg 1 2) s = .next (ran (.addReg 1 2) s) ∧
      (ran (.addReg 1 2) s).reg 2 = s.reg 2 :=
  ⟨by decide, by decide, rfl, by decide⟩

/-! ### Index and memory -/

theorem witness_BcdStoresThreeDigitsOrFaults :
    ((start 0xF033).setI 0xFFD).I.toNat + 2 < 0x1000 ∧ 0x1000 ≤ ((start 0xF033).setI 0xFFE).I.toNat + 2 := by
  decide
/-- The last range that fits, and an empty range at an `I` past memory. -/
theorem witness_DumpStoresRegistersBelowVx :
    ((start 0xF355).setI 0xFFD).I.toNat + (3 : Reg).val ≤ 0x1000 ∧
      ((0 : Reg) = 0 ∧ 0x1000 < ((start 0xF055).setI 0xFFFF).I.toNat) := by decide
theorem witness_LoadFillsRegistersBelowVx :
    ((start 0xF365).setI 0xFFD).I.toNat + (3 : Reg).val ≤ 0x1000 ∧
      ((0 : Reg) = 0 ∧ 0x1000 < ((start 0xF065).setI 0xFFFF).I.toNat) := by decide
/-- The lowest failing `I`, under the default and under `dump_inclusive`. -/
theorem witness_BlockPastMemoryFaultsPrecisely :
    (0 < blockCount Config.params 3 ∧ 0x1000 ≤ ((start 0).setI 0xFFE).I.toNat + blockCount Config.params 3 - 1) ∧
      (0 < blockCount inclusive 0 ∧ 0x1000 ≤ ((start 0).setI 0x1000).I.toNat + blockCount inclusive 0 - 1) := by
  decide
theorem witness_OtherParametersShiftVyAndReachVx :
    shiftVy.shiftSource = .vy ∧ inclusive.dumpInclusive = true ∧
      ((start 0xFF55).setI 0xFF0).I.toNat + (15 : Reg).val < 0x1000 := by decide
theorem witness_DumpThenLoadReproducesRegisters :
    let p := Config.params
    let s := ((start 0xF355).setRegs [1, 2, 3, 4]).setI 0x400
    let t := ranUnder p (.ldMemV 3) s
    let u := t.setReg 1 0xEE
    let v := ranUnder p (.ldVMem 3) u
    execUnder p (.ldMemV 3) s = .next t ∧ t.fault = none ∧ u.I = s.I ∧
      (∀ k, k < blockCount p 3 → u.mem.read (s.I.toNat + k) = t.mem.read (s.I.toNat + k)) ∧
      execUnder p (.ldVMem 3) u = .next v ∧ v.fault = none :=
  ⟨rfl, by decide, by decide, fun _ _ => rfl, rfl, by decide⟩
theorem witness_StoresAreSeenByTheNextFetch :
    let s := ((start 0xF033).setReg 0 159).setI 0x202
    s.I.toNat = s.pc.toNat + 2 ∧ s.I.toNat + 2 < 0x1000 := by decide

/-! ### Display -/

/-- The last sprite that fits, no rows at an `I` past memory, and the first sprite that does not fit. -/
theorem witness_DrawXorsTheCoveredPixelsOrFaults :
    ((start 0xD123).setI 0xFFD).I.toNat + (3 : Fin 16).val ≤ 0x1000 ∧
      ((0 : Fin 16) = 0 ∧ 0x1000 < ((start 0xD120).setI 0xFFFF).I.toNat) ∧
      (0 < (3 : Fin 16).val ∧ 0x1000 ≤ ((start 0xD123).setI 0xFFE).I.toNat + (3 : Fin 16).val - 1) := by decide
theorem witness_DrawingTwiceUndoesTheDraw :
    let s := regs2 ((start 0xD125).setI 0x32) 1 62 2 31
    let t := ran (.drw 1 2 5) s
    let u := t.setReg 3 7
    let v := ran (.drw 1 2 5) u
    exec (.drw 1 2 5) s = .next t ∧ t.fault = none ∧ exec (.drw 1 2 5) u = .next v ∧ v.fault = none ∧
      u.fb = t.fb ∧ u.reg 1 = s.reg 1 ∧ u.reg 2 = s.reg 2 ∧ u.I = s.I ∧
      ∀ r, r < (5 : Fin 16).val → u.mem.read (s.I.toNat + r) = s.mem.read (s.I.toNat + r) :=
  ⟨rfl, by decide, rfl, by decide, rfl, by decide, by decide, by decide, fun _ _ => rfl⟩

/-! ### Keys and timers -/

theorem witness_KeySkipsTestTheNamedKeyOrFault :
    (((start 0xE59E).setReg 5 15).reg 5).toNat < 16 ∧ 16 ≤ (((start 0xE59E).setReg 5 16).reg 5).toNat := by decide
/-- No key, key 0, key 15 alone, and the lowest of two. -/
theorem witness_WaitForKeyTakesTheLowestKey :
    (∀ k : Fin 16, (start 0xF00A).keys[k] = false) ∧
      ∀ q ∈ [([0, 5], (0 : Fin 16)), ([15], 15), ([3, 7], 3)], (withKeys (start 0xF00A) q.1).keys[q.2] = true ∧
        ∀ j : Fin 16, j < q.2 → (withKeys (start 0xF00A) q.1).keys[j] = false := by decide

/-! ### Rules about all instructions -/

theorem witness_RegistersChangeOnlyAsNamedOrFlag :
    let s := regs2 (start 0) 1 255 2 2
    execUnder Config.params (.addReg 1 2) s = .next (ranUnder Config.params (.addReg 1 2) s) ∧
      (ranUnder Config.params (.addReg 1 2) s).reg 1 ≠ s.reg 1 ∧
      (ranUnder Config.params (.addReg 1 2) s).reg VF ≠ s.reg VF :=
  ⟨rfl, by decide, by decide⟩
/-- One instruction for each clause. -/
theorem witness_ElementsHaveOnlyTheirWriters :
    let s := atPc (((start 0).setReg 1 9).setI 0x300) 0x200 1
    (ran (.ldI 5) s).I ≠ s.I ∧ (ran (.call 5) s).stack ≠ s.stack ∧ (ran .ret s).sp ≠ s.sp ∧
      (ran (.ldDtV 1) s).DT ≠ s.DT ∧ (ran (.ldStV 1) s).ST ≠ s.ST ∧ (ran (.ldB 1) s).mem ≠ s.mem ∧
      (ran (.drw 0 0 1) (s.setI 0)).fb ≠ s.fb ∧ ∀ i, execUnder Config.params i s = exec i s :=
  ⟨by decide, by decide, by decide, by decide, by decide, by decide, by decide +kernel, fun i => by cases i <;> rfl⟩
theorem witness_StepsNeverRaiseATimerOrTouchKeys :
    let s := (start 0xF115).setReg 1 9
    let t := (start 0xF118).setReg 1 9
    stepUnder Config.params s = .next (after s) ∧ s.DT.toNat < (after s).DT.toNat ∧
      stepUnder Config.params t = .next (after t) ∧ t.ST.toNat < (after t).ST.toNat :=
  ⟨rfl, by decide, rfl, by decide⟩
/-- A fault, and an instruction that does not redirect, at the last fetchable address. -/
theorem witness_PcAdvancesByTwoUnlessRedirected :
    let s := { start 0 with pc := 0xFFE }
    s.fault = none ∧ s.pc.toNat ≤ 0xFFE ∧
      (execUnder Config.params .ret s = .next (ranUnder Config.params .ret s) ∧
        (ranUnder Config.params .ret s).fault ≠ none) ∧
      execUnder Config.params .cls s = .next (ranUnder Config.params .cls s) ∧
      (ranUnder Config.params .cls s).fault = none ∧ Instr.cls.redirects = false :=
  ⟨by decide, by decide, ⟨rfl, by decide⟩, rfl, by decide, by decide⟩

/-! ### The invariant -/

/-- A state inside a call, with a written byte, meets the invariant, and its next step answers. -/
theorem witness_StepKeepsTheInvariant :
    let s := withBytes (after (start 0x2210)) 0x300 [7]
    Inv s ∧ stepUnder Config.params s = .next (after s) :=
  ⟨{ mem_wf := by decide, pc_le := by decide, stack_le := by decide
     fault_pc := fun r h => by cases (show (none : Option FaultRecord) = some r from h)
     fault_holds := fun r h => by cases (show (none : Option FaultRecord) = some r from h) }, rfl⟩
/-- A halted state meets the invariant. -/
theorem witness_HostTransactionsKeepTheInvariant :
    let s := after (start 0x00EE)
    Config.params.resetRegs = .zero ∧ Inv s ∧
      hostDo Config.params (.setKeys (Vector.replicate 16 true)) s =
        .next (hostSetKeys (Vector.replicate 16 true) s, .done) :=
  ⟨rfl,
   { mem_wf := by decide, pc_le := by decide, stack_le := by decide
     fault_pc := fun r h => by
       cases (show some (FaultRecord.mk .stackUnderflow 0x200 (some 0x00EE)) = some r from h); decide
     fault_holds := fun r h => by
       cases (show some (FaultRecord.mk .stackUnderflow 0x200 (some 0x00EE)) = some r from h)
       show (after (start 0x00EE)).sp = 0; decide },
   rfl⟩

end Sys2Proof.Tests
end

/-! The opcode map's rows read on a word's fields, and strict decoding (R94, R97). -/

namespace Sys2Proof

/-! ## What each mask of the opcode map compares (R94) -/

theorem selects_maskFFFF_iff (pattern : String) (value w : Word) :
    (OpcodeRow.mk pattern value 0xFFFF).selects w = true ↔ w = value := by
  rw [OpcodeRow.selects, beq_iff_eq]
  change w &&& 0xFFFF#16 = value ↔ w = value
  rw [and_FFFF]

theorem selects_maskF000_iff (pattern : String) (value w : Word) :
    (OpcodeRow.mk pattern value 0xF000).selects w = true ↔
      (fields w).c = value.toNat / 4096 ∧ value.toNat % 4096 = 0 := by
  rw [selects_iff]
  change (w &&& 0xF000#16).toNat = value.toNat ↔ _
  rw [toNat_and_F000]; omega

theorem selects_maskF00F_iff (pattern : String) (value w : Word) :
    (OpcodeRow.mk pattern value 0xF00F).selects w = true ↔
      (fields w).c = value.toNat / 4096 ∧ (fields w).d.val = value.toNat % 4096 := by
  rw [selects_iff]
  change (w &&& 0xF00F#16).toNat = value.toNat ↔ _
  rw [toNat_and_F00F]; omega

theorem selects_maskF0FF_iff (pattern : String) (value w : Word) :
    (OpcodeRow.mk pattern value 0xF0FF).selects w = true ↔
      (fields w).c = value.toNat / 4096 ∧ (fields w).kk.toNat = value.toNat % 4096 := by
  have := (fields w).kk.isLt
  rw [selects_iff]
  change (w &&& 0xF0FF#16).toNat = value.toNat ↔ _
  rw [toNat_and_F0FF]; omega

/-! ## The words the opcode map lists, family by family -/

/-- What R94's table asks of a word's remaining fields once its family is known: the common ground of the
table (`exists_row_selects_iff`) and the decoder (`decode_ok_iff`). -/
def ListedInFamily (w : Word) : Nat → Prop
  | 0x0 => w = 0x00E0 ∨ w = 0x00EE
  | 0x5 | 0x9 => (fields w).d = 0
  | 0x8 => (fields w).d.val ∈ [0x0, 0x1, 0x2, 0x3, 0x4, 0x5, 0x6, 0x7, 0xE]
  | 0xE => (fields w).kk.toNat ∈ [0x9E, 0xA1]
  | 0xF => (fields w).kk.toNat ∈ [0x07, 0x0A, 0x15, 0x18, 0x1E, 0x29, 0x33, 0x55, 0x65]
  | _ => True

/-- A fixed word of the table lies in family 0 (R93 `FIX`). -/
theorem fields_c_of_fixed {w : Word} (h : w = 0x00E0 ∨ w = 0x00EE) : (fields w).c = 0 := by
  rcases h with rfl | rfl <;> rfl

/-- In each family, the rows of other families drop out and its own remain (R94). -/
theorem exists_row_selects_iff (w : Word) :
    (∃ r ∈ opcodeMap, r.selects w = true) ↔ ListedInFamily w (fields w).c := by
  have hc := fields_c_lt w
  have hfix := @fields_c_of_fixed w
  simp only [opcodeMap, List.cons_append, List.nil_append, List.mem_cons, List.not_mem_nil, or_false,
    exists_eq_or_imp, exists_eq_left, selects_maskFFFF_iff, selects_maskF000_iff, selects_maskF00F_iff,
    selects_maskF0FF_iff]
  generalize (fields w).c = c at hc hfix
  interval_cases c <;> simp_all [ListedInFamily]

/-! ## The words the decoder accepts, family by family -/

theorem decode0_ok_iff (w : Word) : (∃ i, decode0 w = .ok i) ↔ ListedInFamily w 0x0 := by
  unfold decode0
  split_ifs <;> simp [ListedInFamily, *]

theorem decode5_ok_iff (w : Word) : (∃ i, decode5 (fields w) w = .ok i) ↔ ListedInFamily w 0x5 := by
  unfold decode5
  split_ifs <;> simp [ListedInFamily, *]

theorem decode8_ok_iff (w : Word) : (∃ i, decode8 (fields w) w = .ok i) ↔ ListedInFamily w 0x8 := by
  unfold decode8
  split <;> simp_all [ListedInFamily]

theorem decode9_ok_iff (w : Word) : (∃ i, decode9 (fields w) w = .ok i) ↔ ListedInFamily w 0x9 := by
  unfold decode9
  split_ifs <;> simp [ListedInFamily, *]

theorem decodeE_ok_iff (w : Word) : (∃ i, decodeE (fields w) w = .ok i) ↔ ListedInFamily w 0xE := by
  unfold decodeE
  split <;> simp_all [ListedInFamily]

theorem decodeF_ok_iff (w : Word) : (∃ i, decodeF (fields w) w = .ok i) ↔ ListedInFamily w 0xF := by
  unfold decodeF
  split <;> simp_all [ListedInFamily]

/-- Ten families are accepted whatever their operands; the other six have a decoder of their own (R97). -/
theorem decode_ok_iff (w : Word) : (∃ i, decode w = .ok i) ↔ ListedInFamily w (fields w).c := by
  have hc := fields_c_lt w
  unfold decode
  dsimp only
  generalize (fields w).c = c at hc
  by_cases hown : c ∈ [0x0, 0x5, 0x8, 0x9, 0xE, 0xF]
  · simp only [List.mem_cons, List.not_mem_nil, or_false] at hown
    obtain rfl | rfl | rfl | rfl | rfl | rfl := hown
    · exact decode0_ok_iff w
    · exact decode5_ok_iff w
    · exact decode8_ok_iff w
    · exact decode9_ok_iff w
    · exact decodeE_ok_iff w
    · exact decodeF_ok_iff w
  · interval_cases c <;> simp_all [ListedInFamily]

/-- Settles O3: family by family, the decoder and the opcode map ask the same of a word's fields. -/
theorem decodeAcceptsExactlyTheOpcodeMap : Obligations.DecodeAcceptsExactlyTheOpcodeMap := fun w =>
  (decode_ok_iff w).trans (exists_row_selects_iff w).symm

end Sys2Proof

/-! The step's phases and the host operations (40_dispatch.md): how each way a step can go ends, and what a load, a
key latch and a pixel read give. -/

namespace Sys2Proof.Machine

/-! ## The step, one equation per phase that ends it (R123, R124, R131) -/

theorem stepUnder_of_halted {p : Config.Params} {s : State} {r : FaultRecord} (hf : s.fault = some r) :
    stepUnder p s = .next (s.returning (.halted r)) := by
  simp only [stepUnder, hf]

theorem stepUnder_of_pc_gt {p : Config.Params} {s : State} (hf : s.fault = none)
    (hpc : Config.lastFetch < s.pc.toNat) :
    stepUnder p s = .next (conclude p .ok (s.raise .pcOutOfRange none)) := by
  simp only [stepUnder, hf, if_pos hpc]

theorem stepUnder_of_decode_error {p : Config.Params} {s : State} {e : Reject} (hf : s.fault = none)
    (hpc : s.pc.toNat ≤ Config.lastFetch) (hd : decode s.fetch = .error e) :
    stepUnder p s = .next (conclude p (.reported s.pc s.fetch) (unknownOpcode p s.fetch s)) := by
  simp only [stepUnder, hf, if_neg (Nat.not_lt.mpr hpc), runWord, hd]

theorem unknownOpcode_of_halts {p : Config.Params} (hp : p.unknownOpcodeHalts = true) (w : Word) (s : State) :
    unknownOpcode p w s = s.raise .unimplementedOpcode (some w) := if_pos hp

/-- This hardware's policy for an unknown word is the report (R10, R131). -/
theorem unknownOpcode_default (w : Word) (s : State) : unknownOpcode Config.params w s = s.advance := rfl

/-! ## How a step ends (R122, R130, R262, R263) -/

/-- The status a step returns agrees with the latch it leaves: `st` on a clear latch, else the latched fault. -/
theorem conclude_status_cases (p : Config.Params) (st : StepStatus) (t : State) :
    ((conclude p st t).fault = none ∧ (conclude p st t).status = some st) ∨
    ∃ r, (conclude p st t).fault = some r ∧ (conclude p st t).status = some (.fault r) := by
  cases h : t.fault with
  | none => exact .inl ⟨by simp [conclude_of_none h, h], by simp [conclude_of_none h]⟩
  | some r => exact .inr ⟨r, by simp [conclude_of_some h, h], by simp [conclude_of_some h]⟩

/-- A step that ends right after raising a fault differs only in the latch and returns the fault (R262, R263). -/
theorem stepUnder_precise_of_raise {p : Config.Params} {s : State} {st : StepStatus} {cause : FaultCause}
    {word : Option Word} (h : stepUnder p s = .next (conclude p st (s.raise cause word))) :
    ∃ t, stepUnder p s = .next t ∧ SameCore s t ∧
      t.fault = some { cause := cause, pc := s.pc, word := word } ∧
      t.status = some (.fault { cause := cause, pc := s.pc, word := word }) := by
  rw [conclude_of_some (State.raise_fault s cause word)] at h
  exact ⟨_, h, by simp [SameCore], by simp, by simp⟩

/-- Settles O10: the four ways a step can go, with `conclude_status_cases` for the three that end in `conclude`. -/
theorem everyStepReturnsOneStatus : Obligations.EveryStepReturnsOneStatus := by
  intro p s
  rcases stepUnder_cases p s with ⟨r, hf, hs⟩ | ⟨hf, -, hs⟩ | ⟨hf, -, e, hd, hs⟩ | ⟨hf, -, i, t, hd, -, hs⟩
  · exact ⟨_, hs, .inr (.inr (.inr ⟨r, by simp, hf, by simp [hf]⟩))⟩
  · obtain ⟨t, ht, -, htf, hst⟩ := stepUnder_precise_of_raise hs
    exact ⟨t, ht, .inr (.inr (.inl ⟨_, hst, hf, htf⟩))⟩
  · refine ⟨_, hs, .inr ?_⟩
    rcases conclude_status_cases p (.reported s.pc s.fetch) (unknownOpcode p s.fetch s) with
      ⟨htf, hst⟩ | ⟨r, htf, hst⟩
    · exact .inl ⟨hst, hf, htf, by simp [hd]⟩
    · exact .inr (.inl ⟨r, hst, hf, htf⟩)
  · refine ⟨_, hs, ?_⟩
    rcases conclude_status_cases p .ok t with ⟨htf, hst⟩ | ⟨r, htf, hst⟩
    · exact .inl ⟨hst, hf, htf, i, hd⟩
    · exact .inr (.inr (.inl ⟨r, hst, hf, htf⟩))

/-- Settles O14: the step is `advance`, then the tick phase; a fetchable `pc` does not wrap. -/
theorem unknownOpcodeIsReportedAndSkipped : Obligations.UnknownOpcodeIsReportedAndSkipped := by
  intro s e hf hpc hd
  have hstep : step s = .next
      ((s.advance.tick (s.ticks Config.params)).returning (.reported s.pc s.fetch)) := by
    rw [step, stepUnder_of_decode_error hf hpc hd, unknownOpcode_default,
      conclude_of_none (by simpa using hf), State.advance_ticks]
  have hpc2 : (s.pc + 2).toNat = s.pc.toNat + 2 := by bv_omega
  exact ⟨_, hstep, by simp, by simp [hf], hpc2, by simp [StackSame]⟩

/-- Settles O11: a halted core's step is `returning` alone, which writes none of the spec's elements. -/
theorem haltedStepChangesNothing : Obligations.HaltedStepChangesNothing := fun p s r hf =>
  ⟨s.returning (.halted r), stepUnder_of_halted hf, by simp [SameCore], by simp [hf], by simp⟩

/-- Settles O12: the step ends right after raising the fault. -/
theorem fetchOutOfRangeFaults : Obligations.FetchOutOfRangeFaults := fun _ _ hf hpc =>
  stepUnder_precise_of_raise (stepUnder_of_pc_gt hf hpc)

/-- Settles O15: under the halt policy the unknown-opcode rule is a raise. -/
theorem unknownOpcodeHaltsUnderTheHaltPolicy : Obligations.UnknownOpcodeHaltsUnderTheHaltPolicy :=
  fun p s e hp hf hpc hd => stepUnder_precise_of_raise (st := .reported s.pc s.fetch) <| by
    rw [stepUnder_of_decode_error hf hpc hd, unknownOpcode_of_halts hp]

/-! ## The fetch (R62, R125) -/

theorem toNat_joinBytes (hi lo : Byte) : (joinBytes hi lo).toNat = hi.toNat * 256 + lo.toNat := by
  have := hi.isLt
  have := lo.isLt
  rw [joinBytes, BitVec.toNat_ofNat]; omega

/-- Settles O13: both bytes of a fetchable word are inside the address space. -/
theorem fetchIsBigEndian : Obligations.FetchIsBigEndian := fun s hpc =>
  have hlo : s.pc.toNat + 1 < 0x1000 := by omega
  ⟨_, _, Memory.read_eq (Nat.lt_of_succ_lt hlo), Memory.read_eq hlo, toNat_joinBytes _ _⟩

/-! ## Loading an image (R140) -/

theorem hostLoad_of_fits {b : List Byte} (h : b.length ≤ Config.progCapacity) (s : State) :
    hostLoad b s = (s.setMem (s.mem.writeSeq Config.progStart b), .ok) := if_neg (by omega)

theorem hostLoad_of_too_large {b : List Byte} (h : Config.progCapacity < b.length) (s : State) :
    hostLoad b s = (s, .romTooLarge b.length) := if_pos h

/-- Settles O22: an image that fits is one sequence of writes from 0x200 on. -/
theorem loadPlacesTheImageOrRefuses : Obligations.LoadPlacesTheImageOrRefuses := by
  intro b s
  refine ⟨fun hb => ?_, fun hb => hostLoad_of_too_large hb s⟩
  rw [hostLoad_of_fits hb]
  have hinside : ∀ k (h : k < b.length), (s.mem.writeSeq Config.progStart b).read (0x200 + k) = some b[k] :=
    fun k h => by
      have haddr : 0x200 + k < 0x1000 := by omega
      rw [Memory.read_eq haddr, Memory.byteAt_writeSeq_inside h]
  have houtside : MemSameOutside s (s.setMem (s.mem.writeSeq Config.progStart b)) 0x200 b.length :=
    fun a ha => Memory.read_congr (Memory.byteAt_writeSeq_outside ha)
  exact ⟨rfl, hinside, houtside,
    by simp [RegsSameBut, StackSame, TimersSame, ScreenSame, HostSideSame]⟩

/-! ## The reads and the key latch (R141 to R144) -/

/-- The pixel dump as the library's row-by-row concatenation of 32 rows of 64, whose elements are known by index. -/
theorem readPixels_eq_flatMap (s : State) :
    readPixels s = (s.fb.flatMap fun row => row.map pixelByte).toList := by
  simp [readPixels, Vector.flatMap, Vector.toList]

/-- Settles O24: index `y * 64 + x` splits by 64 into row `y` and column `x`. -/
theorem readPixelsIsRowMajor : Obligations.ReadPixelsIsRowMajor := by
  refine fun p s => ⟨readPixels s, rfl, by simp [readPixels_eq_flatMap], fun x y => ?_⟩
  have hi : y.val * 64 + x.val < 32 * 64 := by omega
  have hrow : (y.val * 64 + x.val) / 64 = y.val := by omega
  have hcol : (y.val * 64 + x.val) % 64 = x.val := by omega
  rw [readPixels_eq_flatMap, Vector.getElem?_toList, Vector.getElem?_flatMap, dif_pos hi]
  simp only [hrow, hcol, Vector.getElem_map]
  rfl

/-- Settles O23: each of the three transactions is its operation's definition. -/
theorem keysAreReplacedWholesale : Obligations.KeysAreReplacedWholesale :=
  fun _ _ _ => ⟨⟨_, rfl, rfl⟩, rfl, rfl⟩

end Sys2Proof.Machine

/-! Control flow (41_control_flow.md): where a jump, a skip, a call and a return set `pc`, and what they leave as it
was. -/

namespace Sys2Proof.Machine

/-! ## What a change of `pc`, and a raised fault, leave as they were -/

theorem onlyPc_jump (s : State) (w : Word) : OnlyPc s (s.jump w) := by
  simp [OnlyPc, RestSame, RegsSameBut, MemSame, StackSame, TimersSame, ScreenSame, HostSideSame]

/-- A skip is a jump to one of two addresses (R154). -/
theorem onlyPc_skipIf (s : State) (c : Bool) : OnlyPc s (s.skipIf c) := onlyPc_jump s _

theorem faultedAt_raiseIn (s : State) (i : Instr) (cause : FaultCause) :
    FaultedAt s (s.raiseIn i cause) i cause := by
  simp [FaultedAt, SameCore]

/-! ## Jump targets (R92, R160) -/

theorem toNat_addrOperand (nnn : Addr) : (addrOperand nnn).toNat = nnn.toNat :=
  BitVec.toNat_setWidth_of_le (by decide)

/-- The sum of a 12-bit and an 8-bit number is below 2^16. -/
theorem toNat_offsetOperand (nnn : Addr) (o : Byte) : (offsetOperand nnn o).toNat = nnn.toNat + o.toNat := by
  have := nnn.isLt
  have := o.isLt
  rw [offsetOperand, BitVec.toNat_ofNat]; omega

/-- Settles O29: both jumps are `State.jump`, to a target that does not wrap. -/
theorem jumpsSetPcExactly : Obligations.JumpsSetPcExactly := fun s nnn =>
  ⟨⟨_, rfl, toNat_addrOperand nnn, onlyPc_jump s _⟩,
    ⟨_, rfl, toNat_offsetOperand nnn (s.reg 0), onlyPc_jump s _⟩⟩

/-! ## Skips (R154 to R158) -/

theorem skipIf_beq_pc (s : State) (a b : Byte) :
    (s.skipIf (a == b)).pc = if a.toNat = b.toNat then s.pc + 4 else s.pc + 2 := by
  simp [BitVec.toNat_inj]

theorem skipIf_bne_pc (s : State) (a b : Byte) :
    (s.skipIf (a != b)).pc = if a.toNat = b.toNat then s.pc + 2 else s.pc + 4 := by
  simp [BitVec.toNat_inj]

/-- Settles O30: two of the skips test equality and two inequality, of words that are equal as numbers. -/
theorem skipsCompareAndAdvance : Obligations.SkipsCompareAndAdvance := fun s _ _ _ =>
  ⟨⟨_, rfl, onlyPc_skipIf s _, skipIf_beq_pc s _ _⟩, ⟨_, rfl, onlyPc_skipIf s _, skipIf_bne_pc s _ _⟩,
    ⟨_, rfl, onlyPc_skipIf s _, skipIf_beq_pc s _ _⟩, ⟨_, rfl, onlyPc_skipIf s _, skipIf_bne_pc s _ _⟩⟩

/-! ## Call and return, one equation per case of the stack (R151, R153) -/

theorem exec_call_of_push_some {s t : State} {nnn : Addr} (h : s.push (s.pc + 2) = some t) :
    exec (.call nnn) s = .next (t.jump (addrOperand nnn)) := by
  simp only [exec, execCall, h]

theorem exec_call_of_push_none {s : State} {nnn : Addr} (h : s.push (s.pc + 2) = none) :
    exec (.call nnn) s = .next (s.raiseIn (.call nnn) .stackOverflow) := by
  simp only [exec, execCall, h]

theorem exec_ret_of_pop_some {s t : State} {target : Word} (h : s.pop = some (target, t)) :
    exec .ret s = .next (t.jump target) := by
  simp only [exec, execRet, h]

theorem exec_ret_of_pop_none {s : State} (h : s.pop = none) :
    exec .ret s = .next (s.raiseIn .ret .stackUnderflow) := by
  simp only [exec, execRet, h]

/-- Settles O26: the push succeeds and writes only the entry at `sp` and `sp`, or is refused at 16 entries. -/
theorem callPushesAndJumpsOrOverflows : Obligations.CallPushesAndJumpsOrOverflows := by
  intro s nnn
  rcases push_cases s (s.pc + 2) with ⟨hroom, n, hn, hpush⟩ | ⟨hpush, hfull⟩
  · refine ⟨fun _ => ⟨_, exec_call_of_push_some hpush, ?_, hn, toNat_addrOperand nnn, ?_, ?_⟩,
      fun hfull => absurd hroom (by omega)⟩
    · simp
    · intro j hj
      simp [Vector.getElem_set_ne _ _ hj.symm]
    · simp [RegsSameBut, State.reg, MemSame, TimersSame, ScreenSame, HostSideSame]
  · exact ⟨fun hroom => absurd hroom (by omega),
      fun _ => ⟨_, exec_call_of_push_none hpush, faultedAt_raiseIn s _ _⟩⟩

/-- Settles O27: the pop succeeds and writes only `sp`, or is refused on an empty stack. -/
theorem retPopsAndJumpsOrUnderflows : Obligations.RetPopsAndJumpsOrUnderflows := by
  intro s
  rcases pop_cases s with ⟨hpos, n, hn, hpop⟩ | ⟨hpop, hempty⟩
  · exact ⟨fun _ => ⟨_, exec_ret_of_pop_some hpop, rfl, hn, rfl,
        by simp [RegsSameBut, State.reg, MemSame, TimersSame, ScreenSame, HostSideSame]⟩,
      fun hempty => absurd hpos (by omega)⟩
  · exact ⟨fun hpos => absurd hpos (by omega),
      fun _ => ⟨_, exec_ret_of_pop_none hpop, faultedAt_raiseIn s _ _⟩⟩

end Sys2Proof.Machine

/-! The ALU (42_alu.md): which registers its two ways of writing a result may change, and what its sums, differences
and flags are as numbers. -/

namespace Sys2Proof.Machine

/-! ## What writing a result leaves as it was (R170, R177) -/

theorem restSame_setReg_advance (s : State) (x : Reg) (b : Byte) : RestSame s (s.setReg x b).advance := by
  simp [RestSame, MemSame, StackSame, TimersSame, ScreenSame, HostSideSame]

theorem writesOnly_setReg_advance (s : State) (x : Reg) (b : Byte) : WritesOnly s (s.setReg x b).advance [x] := by
  refine ⟨fun r hr => ?_, rfl, restSame_setReg_advance s x b⟩
  rw [State.advance_reg, State.reg_setReg_ne s (List.ne_of_not_mem_cons hr)]

/-- A result and its flag are two register writes, so together they change at most `Vx` and `VF`. -/
theorem writesOnly_setResultFlag_advance (s : State) (x : Reg) (b : Byte) (c : Bool) :
    WritesOnly s (s.setResultFlag x b c).advance [x, VF] := by
  refine ⟨fun r hr => ?_, rfl, restSame_setReg_advance (s.setReg x b) VF (flagByte c)⟩
  obtain ⟨hx, hf⟩ : r ≠ x ∧ r ≠ VF := by simpa using hr
  rw [State.advance_reg, State.reg_setResultFlag_ne s hx hf]

theorem reg_setReg_advance_self (s : State) (x : Reg) (b : Byte) : (s.setReg x b).advance.reg x = b :=
  State.reg_setReg_self s x b

/-! ## Sums, differences and their flags as numbers (R178, R179, R181) -/

theorem toNat_flagByte_carryOf (a b : Byte) :
    (flagByte (carryOf a b)).toNat = if 255 < a.toNat + b.toNat then 1 else 0 := by
  simp [carryOf]

theorem toNat_flagByte_notBorrowOf (a b : Byte) :
    (flagByte (notBorrowOf a b)).toNat = if b.toNat < a.toNat then 1 else 0 := by
  simp [notBorrowOf]

/-- The carry is what the byte sum has lost: two bytes' sum is below 2 * 256. -/
theorem toNat_add_add_carry (a b : Byte) :
    (a + b).toNat + 256 * (flagByte (carryOf a b)).toNat = a.toNat + b.toNat := by
  have := a.isLt
  have := b.isLt
  rw [toNat_flagByte_carryOf, BitVec.toNat_add]
  split <;> omega

theorem toNat_sub_byte (a b : Byte) : (a - b).toNat = (a.toNat + 256 - b.toNat) % 256 := by
  have := b.isLt
  rw [BitVec.toNat_sub]; omega

/-- Settles O33: the flag is read after the result is written, so it is the carry for every `x`; for `x` other than
`F` the result is still there, and `toNat_add_add_carry` gives the exact sum. -/
theorem addWritesSumAndCarry : Obligations.AddWritesSumAndCarry := by
  intro s x y
  refine ⟨_, rfl, writesOnly_setResultFlag_advance s x _ _, ?_, fun hx => ?_⟩
  · rw [State.advance_reg, State.reg_setResultFlag_VF, toNat_flagByte_carryOf]
  · rw [State.advance_reg, State.advance_reg, State.reg_setResultFlag_VF, State.reg_setResultFlag_dest s hx]
    exact ⟨BitVec.toNat_add _ _, toNat_add_add_carry _ _⟩

/-- The one subtraction behind SUB and SUBN: `a - b` into `Vx`, with the strict comparison as the flag (C6). -/
theorem setResultFlag_sub_spec {s t : State} {x : Reg} {a b : Byte}
    (ht : t = (s.setResultFlag x (a - b) (notBorrowOf a b)).advance) :
    WritesOnly s t [x, VF] ∧ (t.reg VF).toNat = (if b.toNat < a.toNat then 1 else 0) ∧
    (x ≠ VF → (t.reg x).toNat = (a.toNat + 256 - b.toNat) % 256) := by
  subst ht
  refine ⟨writesOnly_setResultFlag_advance s x _ _, ?_, fun hx => ?_⟩
  · rw [State.advance_reg, State.reg_setResultFlag_VF, toNat_flagByte_notBorrowOf]
  · rw [State.advance_reg, State.reg_setResultFlag_dest s hx, toNat_sub_byte]

/-- Settles O34: SUB subtracts `Vy` from `Vx`, SUBN `Vx` from `Vy`. -/
theorem subtractsWriteDifferenceAndStrictFlag : Obligations.SubtractsWriteDifferenceAndStrictFlag := fun _ _ _ =>
  ⟨⟨_, rfl, setResultFlag_sub_spec rfl⟩, ⟨_, rfl, setResultFlag_sub_spec rfl⟩⟩

/-! ## The instructions that write `Vx` alone (R171 to R176, R183) -/

/-- Settles O31: each is one register write; only the addition has a value to compute. -/
theorem immediatesAndCopyWriteOnlyVx : Obligations.ImmediatesAndCopyWriteOnlyVx := by
  intro s x y kk
  refine ⟨⟨_, rfl, reg_setReg_advance_self s x _, writesOnly_setReg_advance s x _⟩,
    ⟨_, rfl, ?_, writesOnly_setReg_advance s x _⟩,
    ⟨_, rfl, reg_setReg_advance_self s x _, writesOnly_setReg_advance s x _⟩⟩
  rw [reg_setReg_advance_self, BitVec.toNat_add]

/-- Settles O32: each is one register write, of the library's bitwise operation. -/
theorem logicIsBitwiseAndLeavesVF : Obligations.LogicIsBitwiseAndLeavesVF := by
  intro s x y
  refine ⟨⟨_, rfl, writesOnly_setReg_advance s x _, fun b => ?_⟩,
    ⟨_, rfl, writesOnly_setReg_advance s x _, fun b => ?_⟩,
    ⟨_, rfl, writesOnly_setReg_advance s x _, fun b => ?_⟩⟩
  · rw [reg_setReg_advance_self, BitVec.getLsbD_or]
  · rw [reg_setReg_advance_self, BitVec.getLsbD_and]
  · rw [reg_setReg_advance_self, BitVec.getLsbD_xor]

/-- Settles O37: one register write; the first input the host has named is the step's random byte. -/
theorem rndMasksTheHostsByte : Obligations.RndMasksTheHostsByte := fun s x kk r k rest =>
  have hrnd : State.rnd { s with inputs := ⟨k, r⟩ :: rest } = r := rfl
  ⟨⟨_, rfl, reg_setReg_advance_self s x _, writesOnly_setReg_advance s x _⟩,
    ⟨_, rfl, by rw [reg_setReg_advance_self, hrnd]⟩⟩

end Sys2Proof.Machine

/-! Index register and memory (43_index_memory.md): what a write of `I` and a stored block of bytes change, and what
they leave as it was. -/

namespace Sys2Proof.Machine

/-! ## Writing the index register (R201 to R203) -/

/-- A write of `I` moves on to the next instruction and touches nothing else, `VF` included (D13). -/
theorem setI_advance_frame (s : State) (w : Word) :
    (s.setI w).advance.pc = s.pc + 2 ∧ RegsSameBut s (s.setI w).advance [] ∧ MemSame s (s.setI w).advance ∧
    StackSame s (s.setI w).advance ∧ TimersSame s (s.setI w).advance ∧ ScreenSame s (s.setI w).advance ∧
    HostSideSame s (s.setI w).advance := by
  simp [RegsSameBut, MemSame, StackSame, TimersSame, ScreenSame, HostSideSame]

/-- A byte is zero-extended before it is added, so the sum wraps at 2^16 only. -/
theorem toNat_add_setWidth_byte (w : Word) (b : Byte) :
    (w + b.setWidth 16).toNat = (w.toNat + b.toNat) % 65536 := by
  rw [BitVec.toNat_add, BitVec.toNat_setWidth_of_le (by decide)]

/-- Five times a byte is below 2^16. -/
theorem toNat_glyphAddr (v : Byte) : (glyphAddr v).toNat = v.toNat * 5 := by
  have := v.isLt
  rw [glyphAddr, BitVec.toNat_ofNat]; omega

/-- Settles O38: the three are one write of `I` each, and differ in the number written. -/
theorem indexInstructionsWriteOnlyI : Obligations.IndexInstructionsWriteOnlyI := fun s x nnn =>
  ⟨⟨_, rfl, toNat_addrOperand nnn, setI_advance_frame s _⟩,
    ⟨_, rfl, toNat_add_setWidth_byte s.I (s.reg x), setI_advance_frame s _⟩,
    ⟨_, rfl, toNat_glyphAddr (s.reg x), setI_advance_frame s _⟩⟩

/-! ## Storing a block of bytes (R63, R64, R200) -/

theorem Memory.read_writeSeq_inside {m : Memory} {a k : Nat} {bs : List Byte} (hk : k < bs.length)
    (hfit : a + bs.length ≤ Config.memSize) : (m.writeSeq a bs).read (a + k) = some bs[k] := by
  rw [read_eq (by omega), byteAt_writeSeq_inside hk]

theorem memSameOutside_of_writeSeq {s t : State} {a n : Nat} {bs : List Byte} (hn : bs.length = n)
    (ht : t.mem = s.mem.writeSeq a bs) : MemSameOutside s t a n := by
  subst hn
  intro b hb
  rw [ht, Memory.read_congr (Memory.byteAt_writeSeq_outside hb)]

/-- A write of memory moves on to the next instruction and touches nothing outside memory. -/
theorem setMem_advance_frame (s : State) (m : Memory) :
    (s.setMem m).advance.I = s.I ∧ (s.setMem m).advance.pc = s.pc + 2 ∧ RegsSameBut s (s.setMem m).advance [] ∧
    StackSame s (s.setMem m).advance ∧ TimersSame s (s.setMem m).advance ∧ ScreenSame s (s.setMem m).advance ∧
    HostSideSame s (s.setMem m).advance := by
  simp [RegsSameBut, StackSame, TimersSame, ScreenSame, HostSideSame]

/-! ## Decimal digits, one equation per case of the store (R204) -/

theorem exec_ldB_of_storeBlock_ok {s : State} {x : Reg} {m : Memory}
    (h : s.mem.storeBlock s.dataAddr (bcdDigits (s.reg x)) = .ok m) :
    exec (.ldB x) s = .next (s.setMem m).advance := by
  simp only [exec, execLdB, h]

theorem exec_ldB_of_storeBlock_error {s : State} {x : Reg} {bad : Nat}
    (h : s.mem.storeBlock s.dataAddr (bcdDigits (s.reg x)) = .error bad) :
    exec (.ldB x) s = .next (s.raiseIn (.ldB x) (.memoryOutOfRange bad)) := by
  simp only [exec, execLdB, h]

theorem length_bcdDigits (v : Byte) : (bcdDigits v).length = 3 := rfl

/-- Settles O39: the store of the three digits succeeds, and each digit is read back at its place, or is refused
where the third does not fit. -/
theorem bcdStoresThreeDigitsOrFaults : Obligations.BcdStoresThreeDigitsOrFaults := by
  intro s x
  have hlen := length_bcdDigits (s.reg x)
  have hsize : Config.memSize = 0x1000 := rfl
  rcases storeBlock_cases s.mem s.I.toNat (bcdDigits (s.reg x)) with ⟨hstore, hfit⟩ | ⟨hstore, -, hpast⟩
  · replace hfit : s.I.toNat + (bcdDigits (s.reg x)).length ≤ Config.memSize := by omega
    refine ⟨fun _ => ⟨_, exec_ldB_of_storeBlock_ok hstore, ?_, ?_, ?_, memSameOutside_of_writeSeq hlen rfl,
      setMem_advance_frame s _⟩, fun hpast => absurd hfit (by omega)⟩
    · exact Memory.read_writeSeq_inside (k := 0) (by omega) hfit
    · exact Memory.read_writeSeq_inside (k := 1) (by omega) hfit
    · exact Memory.read_writeSeq_inside (k := 2) (by omega) hfit
  · exact ⟨fun hfit => absurd hpast (by omega),
      fun _ => ⟨_, exec_ldB_of_storeBlock_error hstore, faultedAt_raiseIn s _ _⟩⟩

end Sys2Proof.Machine

/-! Display (44_display.md): which pixels the sprite in memory covers, and what CLS and DRW change and leave as it
was. -/

namespace Sys2Proof.Machine

/-! ## What a write of the screen and of its flag leave as they were, and the flag (R221, R223) -/

/-- Settles O46: CLS is one write of the framebuffer, of the blank one. -/
theorem clearBlanksEveryPixel : Obligations.ClearBlanksEveryPixel := fun s =>
  ⟨(s.setFb blankFb).advance, rfl, pixel_blankFb, rfl,
    by simp [RegsSameBut, MemSame, StackSame, TimersSame, HostSideSame]⟩

/-- A draw's two writes, of the framebuffer and last of `VF`, move on to the next instruction and touch nothing
else. -/
theorem setFb_setReg_VF_advance_frame (s : State) (fb : Framebuffer) (b : Byte) :
    RegsSameBut s ((s.setFb fb).setReg VF b).advance [VF] ∧ ((s.setFb fb).setReg VF b).advance.I = s.I ∧
    ((s.setFb fb).setReg VF b).advance.pc = s.pc + 2 ∧ MemSame s ((s.setFb fb).setReg VF b).advance ∧
    StackSame s ((s.setFb fb).setReg VF b).advance ∧ TimersSame s ((s.setFb fb).setReg VF b).advance ∧
    HostSideSame s ((s.setFb fb).setReg VF b).advance := by
  refine ⟨fun r hr => ?_, by simp [MemSame, StackSame, TimersSame, HostSideSame]⟩
  rw [State.advance_reg, State.reg_setReg_ne _ (List.ne_of_not_mem_cons hr), State.setFb_reg]

theorem flagByte_zero_or_one (c : Bool) : flagByte c = 0 ∨ flagByte c = 1 := by
  cases c
  · exact .inl rfl
  · exact .inr rfl

theorem flagByte_eq_one_iff (c : Bool) : flagByte c = 1 ↔ c = true := by
  cases c <;> decide

/-! ## The pixels under the sprite's set bits (R222, R224) -/

/-- The sprite's column `c` is bit `7 - c` of its row byte. -/
theorem spriteBit_eq_getLsbD (b : Byte) (c : Nat) : spriteBit b c = b.getLsbD (7 - c) := by
  rw [spriteBit, BitVec.getLsbD, Nat.testBit_eq_decide_div_mod_eq]
  rfl

theorem eq_wrapX_iff (px : Fin 64) (x : Nat) : px = wrapX x ↔ px.val = x % 64 := Fin.ext_iff

theorem eq_wrapY_iff (py : Fin 32) (y : Nat) : py = wrapY y ↔ py.val = y % 32 := Fin.ext_iff

/-- The blitter walks the rows as a list; a pixel is covered when the row at some index covers it. -/
theorem rowsCover_iff (x y : Nat) (bs : List Byte) (px : Fin 64) (py : Fin 32) :
    rowsCover x y bs px py = true ↔
      ∃ (r : Nat) (h : r < bs.length), py = wrapY (y + r) ∧ rowCovers x bs[r] (List.range' 0 8) px = true := by
  induction bs generalizing y with
  | nil => simp [rowsCover]
  | cons b bs ih =>
    rw [rowsCover, Bool.or_eq_true, ih, Bool.and_eq_true, beq_iff_eq]
    have hnext (r : Nat) : y + 1 + r = y + (r + 1) := by omega
    constructor
    · rintro (hfirst | ⟨r, hr, hrow, hcol⟩)
      · exact ⟨0, Nat.succ_pos _, hfirst⟩
      · exact ⟨r + 1, Nat.succ_lt_succ hr, hnext r ▸ hrow, hcol⟩
    · rintro ⟨_ | r, hr, hrow, hcol⟩
      · exact .inl ⟨hrow, hcol⟩
      · exact .inr ⟨r, Nat.lt_of_succ_lt_succ hr, hnext r ▸ hrow, hcol⟩

theorem rowCovers_iff (x : Nat) (b : Byte) (px : Fin 64) :
    rowCovers x b (List.range' 0 8) px = true ↔ ∃ c < 8, b.getLsbD (7 - c) = true ∧ px.val = (x + c) % 64 := by
  simp [rowCovers, spriteBit_eq_getLsbD, eq_wrapX_iff]

theorem covers_iff (s : State) (x y n : Nat) (px : Fin 64) (py : Fin 32) :
    covers s x y n px py = true ↔ ∃ r < n, ∃ c < 8,
      (s.mem.byteAt (s.dataAddr + r)).getLsbD (7 - c) = true ∧ px.val = (x + c) % 64 ∧ py.val = (y + r) % 32 := by
  simp [covers, State.dataAddr, and_assoc]

/-- The bytes DRW reads from `I` on cover the pixels the statements' `covers` names. -/
theorem rowsCover_readSeq (s : State) (x y n : Nat) (px : Fin 64) (py : Fin 32) :
    rowsCover x y (s.mem.readSeq s.dataAddr n) px py = covers s x y n px py := by
  rw [Bool.eq_iff_iff, rowsCover_iff, covers_iff]
  simp only [Memory.length_readSeq, Memory.getElem_readSeq, eq_wrapY_iff, rowCovers_iff]
  constructor
  · rintro ⟨r, hr, hpy, c, hc, hbit, hpx⟩
    exact ⟨r, hr, c, hc, hbit, hpx, hpy⟩
  · rintro ⟨r, hr, c, hc, hbit, hpx, hpy⟩
    exact ⟨r, hr, hpy, c, hc, hbit, hpx⟩

/-! ## Drawing, one equation per case of the load (R223) -/

theorem exec_drw_of_loadBlock_ok {s : State} {x y : Reg} {n : Fin 16} {rows : List Byte}
    (h : s.mem.loadBlock s.dataAddr n.val = .ok rows) :
    exec (.drw x y n) s = .next ((s.setFb (blit s.fb (s.reg x).toNat (s.reg y).toNat rows).fb).setReg VF
      (flagByte (blit s.fb (s.reg x).toNat (s.reg y).toNat rows).hit)).advance := by
  simp only [exec, execDrw, h]

theorem exec_drw_of_loadBlock_error {s : State} {x y : Reg} {n : Fin 16} {bad : Nat}
    (h : s.mem.loadBlock s.dataAddr n.val = .error bad) :
    exec (.drw x y n) s = .next (s.raiseIn (.drw x y n) (.memoryOutOfRange bad)) := by
  simp only [exec, execDrw, h]

/-- The sprite at `I` toggles the covered pixels: its at most 15 rows are distinct rows of the screen. -/
theorem pixel_blit_readSeq (s : State) (x y : Nat) (n : Fin 16) (px : Fin 64) (py : Fin 32) :
    pixel (blit s.fb x y (s.mem.readSeq s.dataAddr n.val)).fb px py =
      xor (pixel s.fb px py) (covers s x y n.val px py) := by
  rw [blit, pixel_drawRows _ _ _ _ (by rw [Memory.length_readSeq]; omega), rowsCover_readSeq]

/-- The sprite at `I` reports a collision when a covered pixel was set before the draw. -/
theorem hit_blit_readSeq (s : State) (x y : Nat) (n : Fin 16) :
    (blit s.fb x y (s.mem.readSeq s.dataAddr n.val)).hit = true ↔
      ∃ px py, covers s x y n.val px py = true ∧ pixel s.fb px py = true := by
  rw [blit, hit_drawRows _ _ _ _ (by rw [Memory.length_readSeq]; omega)]
  simp only [rowsCover_readSeq, Bool.false_eq_true, false_or]

/-- Settles O47: the load of the rows succeeds, and the blit of what it read toggles the covered pixels, or is
refused where the last row does not fit. -/
theorem drawXorsTheCoveredPixelsOrFaults : Obligations.DrawXorsTheCoveredPixelsOrFaults := by
  intro s x y n
  have hsize : Config.memSize = 0x1000 := rfl
  have haddr : s.dataAddr = s.I.toNat := rfl
  rcases loadBlock_cases s.mem s.dataAddr n.val with ⟨hload, hfit⟩ | ⟨hload, hpos, hpast⟩
  · refine ⟨fun _ => ⟨_, exec_drw_of_loadBlock_ok hload, fun px py => pixel_blit_readSeq s _ _ n px py, ?_, ?_,
      setFb_setReg_VF_advance_frame s _ _⟩, fun hpos hpast => absurd hfit (by omega)⟩
    · rw [reg_setReg_advance_self]
      exact flagByte_zero_or_one _
    · rw [reg_setReg_advance_self, flagByte_eq_one_iff]
      exact hit_blit_readSeq s _ _ n
  · exact ⟨fun hfit => absurd hpast (by omega),
      fun _ _ => ⟨_, exec_drw_of_loadBlock_error hload, faultedAt_raiseIn s _ _⟩⟩

end Sys2Proof.Machine

/-! Timers and input (45_timers_input.md): ticks add up, which key the key instructions look at, and what a move of a
timer's byte leaves as it was. -/

namespace Sys2Proof.Machine

/-! ## Ticks add up (R248) -/

theorem tickTimer_zero (t : Byte) : tickTimer 0 t = t := by
  simp [← BitVec.toNat_inj]

/-- Subtraction stopping at 0 composes: `(t - m) - n = t - (m + n)`. -/
theorem tickTimer_tickTimer (m n : Nat) (t : Byte) : tickTimer n (tickTimer m t) = tickTimer (m + n) t := by
  simp [← BitVec.toNat_inj, Nat.sub_sub]

theorem State.tick_zero (s : State) : s.tick 0 = s := by
  rw [State.tick, tickTimer_zero, tickTimer_zero]

theorem State.tick_tick (s : State) (m n : Nat) : (s.tick m).tick n = s.tick (m + n) := by
  simp only [State.tick, tickTimer_tickTimer]

theorem State.tick_eq_iterate (s : State) (k : Nat) : s.tick k = (fun u => u.tick 1)^[k] s := by
  induction k with
  | zero => exact s.tick_zero
  | succ k ih => rw [Function.iterate_succ_apply', ← ih, State.tick_tick]

/-- Settles O18: one timer's arithmetic is `toNat_tickTimer`, and the composition is an induction on `k`. -/
theorem ticksSaturateAndCompose : Obligations.TicksSaturateAndCompose := fun s k =>
  ⟨toNat_tickTimer k s.DT, toNat_tickTimer k s.ST, s.tick_eq_iterate k, by simp [StackSame, HostSideSame]⟩

/-! ## The key a register names, one equation per case (R240 to R242) -/

theorem exec_skp_of_lt {s : State} {x : Reg} (h : (s.reg x).toNat < 16) :
    exec (.skp x) s = .next (s.skipIf s.keys[(s.reg x).toNat]) := by
  simp only [exec, execSkp, keyIndex_some h, Fin.getElem_fin]

theorem exec_skp_of_ge {s : State} {x : Reg} (h : 16 ≤ (s.reg x).toNat) :
    exec (.skp x) s = .next (s.raiseIn (.skp x) (.keyIndexOutOfRange (s.reg x))) := by
  simp only [exec, execSkp, keyIndex_none h]

theorem exec_sknp_of_lt {s : State} {x : Reg} (h : (s.reg x).toNat < 16) :
    exec (.sknp x) s = .next (s.skipIf (!s.keys[(s.reg x).toNat])) := by
  simp only [exec, execSknp, keyIndex_some h, Fin.getElem_fin]

theorem exec_sknp_of_ge {s : State} {x : Reg} (h : 16 ≤ (s.reg x).toNat) :
    exec (.sknp x) s = .next (s.raiseIn (.sknp x) (.keyIndexOutOfRange (s.reg x))) := by
  simp only [exec, execSknp, keyIndex_none h]

theorem skipIf_not_pc (s : State) (c : Bool) :
    (s.skipIf (!c)).pc = if c then s.pc + 2 else s.pc + 4 := by
  cases c <;> rfl

/-- Settles O49: below 16 each is a skip on the key's bit, SKNP on its negation; from 16 on each is a raise. -/
theorem keySkipsTestTheNamedKeyOrFault : Obligations.KeySkipsTestTheNamedKeyOrFault := fun s _ =>
  ⟨fun h => ⟨⟨_, exec_skp_of_lt h, onlyPc_skipIf s _, State.skipIf_pc s _⟩,
      ⟨_, exec_sknp_of_lt h, onlyPc_skipIf s _, skipIf_not_pc s _⟩⟩,
    fun h => ⟨⟨_, exec_skp_of_ge h, faultedAt_raiseIn s _ _⟩, ⟨_, exec_sknp_of_ge h, faultedAt_raiseIn s _ _⟩⟩⟩

/-! ## Waiting for a key (R244) -/

theorem lowestKey_eq_none {keys : Vector Bool 16} (h : ∀ k : Fin 16, keys[k] = false) : lowestKey keys = none := by
  rcases lowestKey_cases keys with ⟨hnone, -⟩ | ⟨k, -, hk, -⟩
  · exact hnone
  · exact absurd hk (by simp [h k])

/-- The lowest pressed key is unique: of two different ones, the lower would be both pressed and not. -/
theorem lowestKey_eq_some {keys : Vector Bool 16} {k : Fin 16} (hk : keys[k] = true)
    (hlow : ∀ j : Fin 16, j < k → keys[j] = false) : lowestKey keys = some k.val := by
  rcases lowestKey_cases keys with ⟨-, hall⟩ | ⟨m, hm, hpressed, hbelow⟩
  · exact absurd hk (by simp [hall k])
  · rcases lt_trichotomy m k with hlt | rfl | hgt
    · exact absurd hpressed (by simp [hlow m hlt])
    · exact hm
    · exact absurd hk (by simp [hbelow k hgt])

theorem State.jump_self (s : State) : s.jump s.pc = s := rfl

/-- Waiting writes `pc` back to itself. -/
theorem exec_ldVK_of_none {s : State} {x : Reg} (h : lowestKey s.keys = none) : exec (.ldVK x) s = .next s := by
  simp only [exec, execLdVK, h, State.jump_self]

theorem exec_ldVK_of_some {s : State} {x : Reg} {k : Nat} (h : lowestKey s.keys = some k) :
    exec (.ldVK x) s = .next (s.setReg x (BitVec.ofNat 8 k)).advance := by
  simp only [exec, execLdVK, h]

/-- Settles O50: the key is `lowestKey`'s, and its index, below 16, fits a byte. -/
theorem waitForKeyTakesTheLowestKey : Obligations.WaitForKeyTakesTheLowestKey := by
  refine fun s x => ⟨fun hall => exec_ldVK_of_none (lowestKey_eq_none hall), fun k hk hlow =>
    ⟨_, exec_ldVK_of_some (lowestKey_eq_some hk hlow), ?_, writesOnly_setReg_advance s x _⟩⟩
  rw [reg_setReg_advance_self, BitVec.toNat_ofNat]
  omega

/-! ## Moving a timer's byte (R243, R245, R246) -/

/-- Settles O51: the read of `DT` is one register write; each load is one write of its timer. -/
theorem timerMovesCopyOneByte : Obligations.TimerMovesCopyOneByte := fun s x =>
  ⟨⟨_, rfl, reg_setReg_advance_self s x _, writesOnly_setReg_advance s x _⟩,
    ⟨(s.setDT (s.reg x)).advance, rfl, by simp [RegsSameBut, MemSame, StackSame, ScreenSame, HostSideSame]⟩,
    ⟨(s.setST (s.reg x)).advance, rfl, by simp [RegsSameBut, MemSame, StackSame, ScreenSame, HostSideSame]⟩⟩

end Sys2Proof.Machine

/-! Faults (60_exceptions.md): a word that decodes is its instruction's encoding, so the word an instruction's fault
records is the one fetched, and a step that ends with a fault has raised it from an unchanged state. -/

namespace Sys2Proof

/-! ## A word rebuilt from its operands and the fixed bits its fields matched (R91, R96) -/

theorem packNNN_of_fields {w : Word} {c : Nat} (hc : (fields w).c = c) : packNNN c (fields w).nnn = w :=
  hc ▸ packNNN_fields w

theorem packXKK_of_fields {w : Word} {c : Nat} (hc : (fields w).c = c) :
    packXKK c (fields w).x (fields w).kk = w :=
  hc ▸ packXKK_fields w

theorem packXKK_of_fixed_kk {w : Word} {c : Nat} {kk : Byte} (hc : (fields w).c = c)
    (hkk : (fields w).kk.toNat = kk.toNat) : packXKK c (fields w).x kk = w :=
  BitVec.eq_of_toNat_eq hkk ▸ packXKK_of_fields hc

theorem packXYD_of_fields {w : Word} {c : Nat} {d : Fin 16} (hc : (fields w).c = c)
    (hd : (fields w).d.val = d.val) : packXYD c (fields w).x (fields w).y d = w :=
  hc ▸ Fin.ext hd ▸ packXYD_fields w

/-! ## Encoding what the decoder read, family by family (R96, R97) -/

theorem encode_of_decode0 {w : Word} {i : Instr} (h : decode0 w = .ok i) : encode i = w := by
  unfold decode0 at h
  split_ifs at h with hcls hret <;> cases h
  · exact hcls.symm
  · exact hret.symm

theorem encode_of_decode5 {w : Word} {i : Instr} (hc : (fields w).c = 0x5)
    (h : decode5 (fields w) w = .ok i) : encode i = w := by
  unfold decode5 at h
  split_ifs at h with hd
  cases h
  exact packXYD_of_fields hc (congrArg Fin.val hd)

theorem encode_of_decode8 {w : Word} {i : Instr} (hc : (fields w).c = 0x8)
    (h : decode8 (fields w) w = .ok i) : encode i = w := by
  unfold decode8 at h
  split at h <;> cases h <;> exact packXYD_of_fields hc ‹_›

theorem encode_of_decode9 {w : Word} {i : Instr} (hc : (fields w).c = 0x9)
    (h : decode9 (fields w) w = .ok i) : encode i = w := by
  unfold decode9 at h
  split_ifs at h with hd
  cases h
  exact packXYD_of_fields hc (congrArg Fin.val hd)

theorem encode_of_decodeE {w : Word} {i : Instr} (hc : (fields w).c = 0xE)
    (h : decodeE (fields w) w = .ok i) : encode i = w := by
  unfold decodeE at h
  split at h <;> cases h <;> exact packXKK_of_fixed_kk hc ‹_›

theorem encode_of_decodeF {w : Word} {i : Instr} (hc : (fields w).c = 0xF)
    (h : decodeF (fields w) w = .ok i) : encode i = w := by
  unfold decodeF at h
  split at h <;> cases h <;> exact packXKK_of_fixed_kk hc ‹_›

/-- Decoding drops no bit: the family is a nibble, and each family fixes what its operands leave out. -/
theorem encode_of_decode {w : Word} {i : Instr} (h : decode w = .ok i) : encode i = w := by
  have hlt := fields_c_lt w
  unfold decode at h
  dsimp only at h
  split at h
  case h_1 => exact encode_of_decode0 h
  case h_6 hc => exact encode_of_decode5 hc h
  case h_9 hc => exact encode_of_decode8 hc h
  case h_10 hc => exact encode_of_decode9 hc h
  case h_15 hc => exact encode_of_decodeE hc h
  case h_16 =>
    have hc : (fields w).c = 0xF := by simp only [imp_false] at *; omega
    exact encode_of_decodeF hc h
  case h_2 | h_3 | h_11 | h_12 => cases h; exact packNNN_of_fields ‹_›
  case h_4 | h_5 | h_7 | h_8 | h_13 => cases h; exact packXKK_of_fields ‹_›
  case h_14 hc => cases h; exact packXYD_of_fields hc rfl

end Sys2Proof

namespace Sys2Proof.Machine

/-! ## Where a step's fault comes from (R260, R262, R263) -/

theorem unknownOpcode_of_reports {p : Config.Params} (hp : p.unknownOpcodeHalts = false) (w : Word) (s : State) :
    unknownOpcode p w s = s.advance := by
  simp [unknownOpcode, hp]

/-- The end of a step keeps the latch that execution left. -/
@[simp] theorem conclude_fault (p : Config.Params) (st : StepStatus) (t : State) :
    (conclude p st t).fault = t.fault := by
  cases h : t.fault with
  | none => simp [conclude_of_none h, h]
  | some r => simp [conclude_of_some h, h]

/-- A running core's step that ends with a fault is the end of a raise from the state before it, of a cause whose
condition holds there. -/
theorem stepUnder_raises_of_fault {p : Config.Params} {s t : State} {r : FaultRecord}
    (hs : stepUnder p s = .next t) (hf : s.fault = none) (hr : t.fault = some r) :
    ∃ st cause word, stepUnder p s = .next (conclude p st (s.raise cause word)) ∧
      FaultRecord.holdsIn { cause := cause, pc := s.pc, word := word } s ∧
      (word = some s.fetch ∨ cause = .pcOutOfRange) := by
  rcases stepUnder_cases p s with ⟨r', hf', -⟩ | ⟨-, hpc, h⟩ | ⟨-, -, e, -, h⟩ | ⟨-, -, i, u, hd, hu, h⟩
  · cases hf.symm.trans hf'
  · exact ⟨_, _, _, h, ⟨hpc, rfl⟩, .inr rfl⟩
  · cases hp : p.unknownOpcodeHalts with
    | true => exact ⟨_, .unimplementedOpcode, _, unknownOpcode_of_halts hp s.fetch s ▸ h, trivial, .inl rfl⟩
    | false =>
      rw [unknownOpcode_of_reports hp] at h
      cases hs.symm.trans h
      simp [hf] at hr
  · rcases execUnder_cases p i s with ⟨v, hv, hvf⟩ | ⟨cause, -, hv, -, hholds⟩ <;> cases hu.symm.trans hv
    · cases hs.symm.trans h
      simp [hvf, hf] at hr
    · exact ⟨_, cause, _, h, hholds, .inl (congrArg some (encode_of_decode hd))⟩

/-- Settles O16: the step ended right after a raise, whose record is the one latched. -/
theorem faultsArePrecise : Obligations.FaultsArePrecise := by
  intro p s t r hs hf hr
  obtain ⟨st, cause, word, hraise, hholds, hword⟩ := stepUnder_raises_of_fault hs hf hr
  obtain ⟨u, hu, hcore, hfault, hstatus⟩ := stepUnder_precise_of_raise hraise
  cases hs.symm.trans hu
  cases hr.symm.trans hfault
  exact ⟨hcore, hstatus, rfl, hholds, hword⟩

end Sys2Proof.Machine

/-! Encoding (30_encoding.md): encoding and decoding are inverse, the rows of the opcode map exclude each other, and
a word no row matches lies in the space of its family. -/

namespace Sys2Proof

/-! ## Decoding an encoding (R91, R93, R102) -/

/-- Format by format: the fields of a packed word are the operands it was packed from. -/
theorem decode_encode (i : Instr) : decode (encode i) = .ok i := by
  cases i with
  | cls | ret => rfl
  | jp | call | ldI | jpV0 | seImm | sneImm | ldImm | addImm | rnd | drw => simp [encode, decode]
  | skp | sknp => simp [encode, decode, decodeE]
  | ldVDt | ldVK | ldDtV | ldStV | addI | ldF | ldB | ldMemV | ldVMem => simp [encode, decode, decodeF]
  | ldReg | orReg | andReg | xorReg | addReg | subReg | shr | subnReg | shl => simp [encode, decode, decode8]
  | seReg => simp [encode, decode, decode5]
  | sneReg => simp [encode, decode, decode9]

theorem decodeBytes_encodeBytes (i : Instr) (rest : List Byte) :
    decodeBytes (encodeBytes i ++ rest) = .ok (i, rest) := by
  simp [encodeBytes, decodeBytes, decode_encode]

/-- Settles O1: the word by format, its two bytes because joining them gives the word back. -/
theorem decodeOfEncodeIsTheInstruction : Obligations.DecodeOfEncodeIsTheInstruction := fun i =>
  ⟨decode_encode i, decodeBytes_encodeBytes i⟩

/-- Settles O2: `encode_of_decode`, family by family. -/
theorem encodeOfDecodeIsTheWord : Obligations.EncodeOfDecodeIsTheWord := fun _ _ => encode_of_decode

/-- Settles O7: each of the eleven words is its instruction's encoding; the two refusals are computed. -/
theorem specExampleWordsDecode : Obligations.SpecExampleWordsDecode :=
  ⟨decode_encode .cls, decode_encode (.call 0x210), decode_encode (.sneImm 2 0x05), decode_encode (.addReg 1 2),
    decode_encode (.shl 1 2), decode_encode (.jpV0 0xFFF), decode_encode (.drw 1 2 5), decode_encode (.sknp 5),
    decode_encode (.ldVK 0), decode_encode (.ldF 1), decode_encode (.ldVMem 2), rfl, rfl⟩

/-! ## The rows of the opcode map exclude each other (R94, R95) -/

/-- Two rows that differ on a bit both of them compare. -/
def OpcodeRow.Excludes (r r' : OpcodeRow) : Prop := r.value &&& r'.mask ≠ r'.value &&& r.mask

theorem OpcodeRow.excludes_symm : Std.Symm OpcodeRow.Excludes := ⟨fun _ _ => Ne.symm⟩

/-- A word that both rows select agrees with both on the bits both compare. -/
theorem OpcodeRow.not_excludes_of_selects {r r' : OpcodeRow} {w : Word} (h : r.selects w = true)
    (h' : r'.selects w = true) : ¬ r.Excludes r' := by
  rw [selects, beq_iff_eq] at h h'
  rw [Excludes, not_not, ← h, ← h', BitVec.and_assoc, BitVec.and_assoc, BitVec.and_comm r.mask]

theorem opcodeMap_pairwise_excludes : opcodeMap.Pairwise OpcodeRow.Excludes := by
  unfold OpcodeRow.Excludes
  decide

/-- Settles O4: two different rows exclude each other, so no word is selected by both. -/
theorem noTwoOpcodeRowsSelectOneWord : Obligations.NoTwoOpcodeRowsSelectOneWord := by
  intro w r hr r' hr' hsel hsel'
  by_contra hne
  have := OpcodeRow.excludes_symm
  exact OpcodeRow.not_excludes_of_selects hsel hsel' (opcodeMap_pairwise_excludes.forall hr hr' hne)

/-- Settles O5: the row compares the family, and the sub-opcode where there is one; the encoding has both. -/
theorem everyInstructionEncodesInItsRow : Obligations.EveryInstructionEncodesInItsRow := by
  intro i
  cases i with
  | cls | ret => exact ⟨_, rfl, by decide⟩
  | jp | call | ldI | jpV0 | seImm | sneImm | ldImm | addImm | rnd | drw =>
    exact ⟨_, rfl, by rw [selects_maskF000_iff]; simp [encode]⟩
  | seReg | sneReg | ldReg | orReg | andReg | xorReg | addReg | subReg | shr | subnReg | shl =>
    exact ⟨_, rfl, by rw [selects_maskF00F_iff]; simp [encode]⟩
  | skp | sknp | ldVDt | ldVK | ldDtV | ldStV | addI | ldF | ldB | ldMemV | ldVMem =>
    exact ⟨_, rfl, by rw [selects_maskF0FF_iff]; simp [encode]⟩

/-! ## The spaces of unknown words (R98) -/

/-- The family nibble of a space (R98). -/
def UnknownSpace.family : UnknownSpace → Nat
  | .sys => 0x0
  | .five => 0x5
  | .eight => 0x8
  | .nine => 0x9
  | .keys => 0xE
  | .misc => 0xF

theorem UnknownSpace.family_inj {sp sp' : UnknownSpace} (h : sp.family = sp'.family) : sp = sp' := by
  cases sp <;> cases sp' <;> simp_all [family]

/-- A refused word is named with the space of its family: only the six families with a decoder of their own
refuse a word. -/
theorem decode_error_family {w : Word} {e : Reject} (h : decode w = .error e) :
    ∃ sp : UnknownSpace, e = .unknownOpcode sp w ∧ (fields w).c = sp.family := by
  have hlt := fields_c_lt w
  unfold decode at h
  dsimp only at h
  split at h
  case h_1 hc => unfold decode0 at h; split_ifs at h; cases h; exact ⟨.sys, rfl, hc⟩
  case h_6 hc => unfold decode5 at h; split_ifs at h; cases h; exact ⟨.five, rfl, hc⟩
  case h_9 hc => unfold decode8 at h; split at h <;> cases h; exact ⟨.eight, rfl, hc⟩
  case h_10 hc => unfold decode9 at h; split_ifs at h; cases h; exact ⟨.nine, rfl, hc⟩
  case h_15 hc => unfold decodeE at h; split at h <;> cases h; exact ⟨.keys, rfl, hc⟩
  case h_16 =>
    have hc : (fields w).c = 0xF := by simp only [imp_false] at *; omega
    unfold decodeF at h; split at h <;> cases h; exact ⟨.misc, rfl, hc⟩
  all_goals cases h

/-- A word lies in a space exactly when it has the space's family and the opcode map does not list it (R97, R98). -/
theorem decode_error_iff (w : Word) (sp : UnknownSpace) :
    decode w = .error (.unknownOpcode sp w) ↔ (fields w).c = sp.family ∧ ¬ ListedInFamily w sp.family := by
  constructor
  · intro h
    obtain ⟨sp', hsp, hc⟩ := decode_error_family h
    cases hsp
    exact ⟨hc, fun hl => by simpa [h] using (decode_ok_iff w).mpr (hc ▸ hl)⟩
  · rintro ⟨hc, hl⟩
    cases h : decode w with
    | ok i => exact absurd (hc ▸ (decode_ok_iff w).mp ⟨i, h⟩) hl
    | error e =>
      obtain ⟨sp', rfl, hc'⟩ := decode_error_family h
      rw [UnknownSpace.family_inj (hc.symm.trans hc')]

theorem fields_d_val (w : Word) : (fields w).d.val = bits w 3 0 := by
  simp only [fields, bits, Fin.ofNat]; omega

theorem toNat_fields_kk (w : Word) : (fields w).kk.toNat = bits w 7 0 := by
  simp only [fields, bits, BitVec.toNat_ofNat]; omega

theorem bits_nibble_lt (w : Word) : bits w 3 0 < 16 := Nat.mod_lt _ (by decide)

/-- Family 8 lists nine of the sixteen low nibbles; the space is the other seven. -/
theorem not_listed_eight_iff {d : Nat} (hd : d < 16) :
    d ∉ [0x0, 0x1, 0x2, 0x3, 0x4, 0x5, 0x6, 0x7, 0xE] ↔ d ∈ [0x8, 0x9, 0xA, 0xB, 0xC, 0xD, 0xF] := by
  interval_cases d <;> decide

/-- Settles O6: `decode_error_iff` at each of the six spaces, its fields read as bits of the word. -/
theorem unknownWordsLieInTheirSpaces : Obligations.UnknownWordsLieInTheirSpaces := by
  intro w
  have hc : bits w 15 12 = (fields w).c := rfl
  have hd : bits w 3 0 = 0 ↔ (fields w).d = 0 := by rw [← fields_d_val, Fin.val_eq_zero_iff]
  refine ⟨?_, ?_, ?_, ?_, ?_, ?_⟩ <;> rw [decode_error_iff, hc] <;> refine and_congr_right fun _ => ?_
  · exact not_or
  · exact not_congr hd.symm
  · rw [← not_listed_eight_iff (bits_nibble_lt w), ← fields_d_val]; rfl
  · exact not_congr hd.symm
  · rw [← toNat_fields_kk]; rfl
  · rw [← toNat_fields_kk]; rfl

end Sys2Proof

/-! All instructions and all steps: the ways an instruction can complete, each a write of one kind, and what follows
from them: which instruction changes which element, where `pc` goes, and the invariant. -/

namespace Sys2Proof.Machine

/-! ## The register dump and the register load, one equation per case of the block access (R205, R206) -/

theorem execUnder_ldMemV_of_storeBlock_ok {p : Config.Params} {s : State} {x : Reg} {m : Memory}
    (h : s.mem.storeBlock s.dataAddr (s.V.toList.take (blockCount p x)) = .ok m) :
    execUnder p (.ldMemV x) s = .next (s.setMem m).advance := by
  simp only [execUnder, dumpUnder, h]

theorem execUnder_ldMemV_of_storeBlock_error {p : Config.Params} {s : State} {x : Reg} {bad : Nat}
    (h : s.mem.storeBlock s.dataAddr (s.V.toList.take (blockCount p x)) = .error bad) :
    execUnder p (.ldMemV x) s = .next (s.raiseIn (.ldMemV x) (.memoryOutOfRange bad)) := by
  simp only [execUnder, dumpUnder, h]

theorem execUnder_ldVMem_of_loadBlock_ok {p : Config.Params} {s : State} {x : Reg} {bs : List Byte}
    (h : s.mem.loadBlock s.dataAddr (blockCount p x) = .ok bs) :
    execUnder p (.ldVMem x) s = .next (s.setRegs bs).advance := by
  simp only [execUnder, loadUnder, h]

theorem execUnder_ldVMem_of_loadBlock_error {p : Config.Params} {s : State} {x : Reg} {bad : Nat}
    (h : s.mem.loadBlock s.dataAddr (blockCount p x) = .error bad) :
    execUnder p (.ldVMem x) s = .next (s.raiseIn (.ldVMem x) (.memoryOutOfRange bad)) := by
  simp only [execUnder, loadUnder, h]

/-! ## The ways to complete -/

/-- `Completes p s i t`: the instruction `i`, run from `s`, ends in `t` by a write of one of these kinds and raises
nothing. Tied to the model by `execUnder_completes_or_raises`. -/
inductive Completes (p : Config.Params) (s : State) : Instr → State → Prop
  | writesReg {i : Instr} {x : Reg} {b : Byte} (hx : i.names p x = true) :
    Completes p s i (s.setReg x b).advance
  | writesRegAndFlag {i : Instr} {x : Reg} {b : Byte} {c : Bool} (hx : i.names p x = true)
    (hflag : i.writesFlag = true) : Completes p s i (s.setResultFlag x b c).advance
  | loadsRegs {x : Reg} {bs : List Byte} (hlen : bs.length = blockCount p x) :
    Completes p s (.ldVMem x) (s.setRegs bs).advance
  | setsI {i : Instr} {w : Word} (hi : (∃ nnn, i = .ldI nnn) ∨ (∃ x, i = .addI x) ∨ ∃ x, i = .ldF x) :
    Completes p s i (s.setI w).advance
  | storesBytes {i : Instr} {m : Memory} (hi : (∃ x, i = .ldB x) ∨ ∃ x, i = .ldMemV x)
    (hm : s.mem.wf = true → m.wf = true) : Completes p s i (s.setMem m).advance
  | clears : Completes p s .cls (s.setFb blankFb).advance
  | draws {x y : Reg} {n : Fin 16} {fb : Framebuffer} {b : Byte} :
    Completes p s (.drw x y n) ((s.setFb fb).setReg VF b).advance
  | setsDT {x : Reg} : Completes p s (.ldDtV x) (s.setDT (s.reg x)).advance
  | setsST {x : Reg} : Completes p s (.ldStV x) (s.setST (s.reg x)).advance
  | skips {i : Instr} {c : Bool} (hi : i.redirects = true) : Completes p s i (s.skipIf c)
  | waits {x : Reg} : Completes p s (.ldVK x) s
  | jumps {i : Instr} {w : Word} (hi : i.redirects = true) (hw : w.toNat ≤ 0x10FE) : Completes p s i (s.jump w)
  | calls {nnn : Addr} {n : Fin 17} (hroom : s.sp.val < 16) (hn : n.val = s.sp.val + 1) :
    Completes p s (.call nnn)
      (State.jump { s with stack := s.stack.set s.sp.val (s.pc + 2), sp := n } (addrOperand nnn))
  | returns {n : Fin 17} (hpos : 0 < s.sp.val) (hn : n.val = s.sp.val - 1) :
    Completes p s .ret (State.jump { s with sp := n } s.stack[s.sp.val - 1])

/-- Every instruction answers a next state: a completion of its kind, or a raised fault whose condition holds. -/
theorem exists_execUnder_completes_or_raises (p : Config.Params) (i : Instr) (s : State) :
    ∃ t, execUnder p i s = .next t ∧ (Completes p s i t ∨ ∃ cause, t = s.raiseIn i cause ∧
      FaultRecord.holdsIn { cause := cause, pc := s.pc, word := some (encode i) } s) := by
  cases i with
  | cls => exact ⟨_, rfl, .inl .clears⟩
  | ret =>
    rcases pop_cases s with ⟨hpos, n, hn, hpop⟩ | ⟨hpop, hempty⟩
    · exact ⟨_, exec_ret_of_pop_some hpop, .inl (.returns hpos hn)⟩
    · exact ⟨_, exec_ret_of_pop_none hpop, .inr ⟨_, rfl, Fin.ext hempty⟩⟩
  | call nnn =>
    rcases push_cases s (s.pc + 2) with ⟨hroom, n, hn, hpush⟩ | ⟨hpush, hfull⟩
    · exact ⟨_, exec_call_of_push_some hpush, .inl (.calls hroom hn)⟩
    · exact ⟨_, exec_call_of_push_none hpush, .inr ⟨_, rfl, Fin.ext hfull⟩⟩
  | jp nnn => exact ⟨_, rfl, .inl (.jumps rfl (by rw [toNat_addrOperand]; omega))⟩
  | jpV0 nnn => exact ⟨_, rfl, .inl (.jumps rfl (by rw [toNat_offsetOperand]; omega))⟩
  | seImm | sneImm | seReg | sneReg => exact ⟨_, rfl, .inl (.skips rfl)⟩
  | skp x =>
    rcases keyIndex_cases (s.reg x) with ⟨hkey, -⟩ | ⟨-, hkey⟩
    · exact ⟨_, exec_skp_of_lt hkey, .inl (.skips rfl)⟩
    · exact ⟨_, exec_skp_of_ge hkey, .inr ⟨_, rfl, hkey⟩⟩
  | sknp x =>
    rcases keyIndex_cases (s.reg x) with ⟨hkey, -⟩ | ⟨-, hkey⟩
    · exact ⟨_, exec_sknp_of_lt hkey, .inl (.skips rfl)⟩
    · exact ⟨_, exec_sknp_of_ge hkey, .inr ⟨_, rfl, hkey⟩⟩
  | ldImm x | addImm x | ldReg x | orReg x | andReg x | xorReg x | rnd x | ldVDt x =>
    exact ⟨_, rfl, .inl (.writesReg (beq_self_eq_true x))⟩
  | addReg x | subReg x | shr x | subnReg x | shl x =>
    exact ⟨_, rfl, .inl (.writesRegAndFlag (beq_self_eq_true x) rfl)⟩
  | ldVK x =>
    cases hkey : lowestKey s.keys with
    | none => exact ⟨_, exec_ldVK_of_none hkey, .inl .waits⟩
    | some k => exact ⟨_, exec_ldVK_of_some hkey, .inl (.writesReg (beq_self_eq_true x))⟩
  | ldI nnn => exact ⟨_, rfl, .inl (.setsI (.inl ⟨nnn, rfl⟩))⟩
  | addI x => exact ⟨_, rfl, .inl (.setsI (.inr (.inl ⟨x, rfl⟩)))⟩
  | ldF x => exact ⟨_, rfl, .inl (.setsI (.inr (.inr ⟨x, rfl⟩)))⟩
  | ldDtV => exact ⟨_, rfl, .inl .setsDT⟩
  | ldStV => exact ⟨_, rfl, .inl .setsST⟩
  | drw x y n =>
    rcases loadBlock_cases s.mem s.dataAddr n.val with ⟨hload, -⟩ | ⟨hload, -⟩
    · exact ⟨_, exec_drw_of_loadBlock_ok hload, .inl .draws⟩
    · exact ⟨_, exec_drw_of_loadBlock_error hload, .inr ⟨_, rfl, rfl⟩⟩
  | ldB x =>
    rcases storeBlock_cases s.mem s.dataAddr (bcdDigits (s.reg x)) with ⟨hstore, -⟩ | ⟨hstore, -⟩
    · exact ⟨_, exec_ldB_of_storeBlock_ok hstore,
        .inl (.storesBytes (.inl ⟨x, rfl⟩) fun hm => wf_storeBlock hm hstore)⟩
    · exact ⟨_, exec_ldB_of_storeBlock_error hstore, .inr ⟨_, rfl, rfl⟩⟩
  | ldMemV x =>
    rcases storeBlock_cases s.mem s.dataAddr (s.V.toList.take (blockCount p x)) with ⟨hstore, -⟩ | ⟨hstore, -⟩
    · exact ⟨_, execUnder_ldMemV_of_storeBlock_ok hstore,
        .inl (.storesBytes (.inr ⟨x, rfl⟩) fun hm => wf_storeBlock hm hstore)⟩
    · exact ⟨_, execUnder_ldMemV_of_storeBlock_error hstore, .inr ⟨_, rfl, rfl⟩⟩
  | ldVMem x =>
    rcases loadBlock_cases s.mem s.dataAddr (blockCount p x) with ⟨hload, -⟩ | ⟨hload, -⟩
    · exact ⟨_, execUnder_ldVMem_of_loadBlock_ok hload, .inl (.loadsRegs (Memory.length_readSeq _ _ _))⟩
    · exact ⟨_, execUnder_ldVMem_of_loadBlock_error hload, .inr ⟨_, rfl, rfl⟩⟩

theorem execUnder_completes_or_raises {p : Config.Params} {i : Instr} {s t : State}
    (h : execUnder p i s = .next t) : Completes p s i t ∨ ∃ cause, t = s.raiseIn i cause ∧
      FaultRecord.holdsIn { cause := cause, pc := s.pc, word := some (encode i) } s := by
  obtain ⟨u, hu, hcases⟩ := exists_execUnder_completes_or_raises p i s
  cases h.symm.trans hu
  exact hcases

/-! ## What a completion leaves in each element -/

section Completion

variable {p : Config.Params} {s t : State} {i : Instr} (h : Completes p s i t)
include h

theorem Completes.fault_eq : t.fault = s.fault := by
  cases h <;> rfl

theorem Completes.pc_eq_of_not_redirects (hi : i.redirects = false) : t.pc = s.pc + 2 := by
  cases h with
  | skips hr => simp [hr] at hi
  | jumps hr _ => simp [hr] at hi
  | waits | calls | returns => cases hi
  | _ => rfl

theorem Completes.names_or_flag_of_reg_ne {r : Reg} (hr : t.reg r ≠ s.reg r) :
    i.names p r = true ∨ (r = VF ∧ i.writesFlag = true) := by
  cases h with
  | @writesReg _ x b hx =>
    by_cases hrx : r = x
    · exact .inl (hrx ▸ hx)
    · exact absurd (State.reg_setReg_ne s hrx b) hr
  | @writesRegAndFlag _ x b c hx hflag =>
    by_cases hrx : r = x
    · exact .inl (hrx ▸ hx)
    · by_cases hrf : r = VF
      · exact .inr ⟨hrf, hflag⟩
      · exact absurd (State.reg_setResultFlag_ne s hrx hrf b c) hr
  | @loadsRegs x bs hlen =>
    by_cases hrx : r.val < blockCount p x
    · exact .inl (decide_eq_true hrx)
    · refine absurd ?_ hr
      rw [State.advance_reg, reg_setRegs, List.getElem?_eq_none (by omega), Option.getD_none]
  | @draws _ _ _ fb b =>
    by_cases hrf : r = VF
    · exact .inr ⟨hrf, rfl⟩
    · exact absurd (State.reg_setReg_ne (s.setFb fb) hrf b) hr
  | _ => exact absurd rfl hr

theorem Completes.mem_wf (hs : s.mem.wf = true) : t.mem.wf = true := by
  cases h with
  | storesBytes _ hm => exact hm hs
  | _ => exact hs

theorem Completes.pc_le (hs : Inv s) (hpc : s.pc.toNat ≤ 0xFFE) : t.pc.toNat ≤ 0x10FE := by
  have h2 : (s.pc + 2).toNat ≤ 0x10FE := by bv_omega
  have h4 : (s.pc + 4).toNat ≤ 0x10FE := by bv_omega
  cases h with
  | jumps _ hw => exact hw
  | waits => exact hs.pc_le
  | @skips _ c _ => cases c <;> assumption
  | @calls nnn _ _ _ => rw [State.jump_pc, toNat_addrOperand]; omega
  | returns hpos _ =>
    exact (hs.stack_le ⟨s.sp.val - 1, by omega⟩ (Nat.sub_lt hpos Nat.one_pos)).2.trans (by decide)
  | _ => exact h2

theorem Completes.stack_le (hs : Inv s) (hpc : s.pc.toNat ≤ 0xFFE) (j : Fin 16)
    (hj : j.val < t.sp.val) : 2 ≤ t.stack[j].toNat ∧ t.stack[j].toNat ≤ 0x1000 := by
  cases h with
  | @calls _ n hroom hn =>
    replace hj : j.val < n.val := hj
    rw [State.jump_stack]
    by_cases hjs : j.val = s.sp.val
    · have hpushed : (s.stack.set s.sp.val (s.pc + 2))[j] = s.pc + 2 := by simp [← hjs]
      rw [hpushed]
      bv_omega
    · have hkept : (s.stack.set s.sp.val (s.pc + 2))[j] = s.stack[j] := Vector.getElem_set_ne _ _ (Ne.symm hjs)
      rw [hkept]
      exact hs.stack_le j (by omega)
  | @returns n hpos hn =>
    replace hj : j.val < n.val := hj
    exact hs.stack_le j (by omega)
  | _ => exact hs.stack_le j hj

end Completion

/-! ## Rules about all instructions (R23, R25 to R34, R61, R128, R150, R261) -/

/-- Settles O17: the raising case of `execUnder_cases` is for the eight only. -/
theorem onlyEightInstructionsCanFault : Obligations.OnlyEightInstructionsCanFault := by
  intro p i s hi
  rcases execUnder_cases p i s with hdone | ⟨cause, hfault, -⟩
  · exact hdone
  · cases hi.symm.trans hfault

/-- Settles O52: a raise leaves the registers; a completion writes named ones and the flag. -/
theorem registersChangeOnlyAsNamedOrFlag : Obligations.RegistersChangeOnlyAsNamedOrFlag := by
  intro p i s t r h hr
  rcases execUnder_completes_or_raises h with hdone | ⟨cause, rfl, -⟩
  · exact hdone.names_or_flag_of_reg_ne hr
  · exact absurd (State.raiseIn_reg s i cause r) hr

/-- Settles O53: each kind of completion writes one element, and a raise the latch only. -/
theorem elementsHaveOnlyTheirWriters : Obligations.ElementsHaveOnlyTheirWriters := by
  intro p i s t h
  rcases execUnder_completes_or_raises h with hdone | ⟨cause, rfl, -⟩
  · cases hdone with
    | setsI hi => exact ⟨fun _ => hi, by simp⟩
    | storesBytes hi _ => exact ⟨by simp, by simp, by simp, by simp, by simp, by simp, fun _ => hi, by simp⟩
    | _ => simp
  · simp

/-- Settles O55: a raise leaves `pc`; a completion that does not redirect advances it, and from a fetchable address
the sum does not wrap. -/
theorem pcAdvancesByTwoUnlessRedirected : Obligations.PcAdvancesByTwoUnlessRedirected := by
  intro p i s t hf h
  rcases execUnder_completes_or_raises h with hdone | ⟨cause, rfl, -⟩
  · refine ⟨fun htf => absurd (hdone.fault_eq.trans hf) htf, fun _ hi => hdone.pc_eq_of_not_redirects hi,
      fun hpc hi _ => ?_⟩
    rw [hdone.pc_eq_of_not_redirects hi]
    bv_omega
  · simp

/-! ## What the end of a step leaves (R130, R262) -/

theorem unknownOpcode_cases (p : Config.Params) (w : Word) (s : State) :
    unknownOpcode p w s = s.advance ∨ unknownOpcode p w s = s.raise .unimplementedOpcode (some w) := by
  cases hp : p.unknownOpcodeHalts with
  | true => exact .inr (unknownOpcode_of_halts hp w s)
  | false => exact .inl (unknownOpcode_of_reports hp w s)

/-- The end of a step leaves the keys and never raises a timer. -/
theorem conclude_keys_timers (p : Config.Params) (st : StepStatus) (t : State) :
    (conclude p st t).keys = t.keys ∧ (conclude p st t).DT.toNat ≤ t.DT.toNat ∧
    (conclude p st t).ST.toNat ≤ t.ST.toNat := by
  cases h : t.fault with
  | none => simp [conclude_of_none h]
  | some r => simp [conclude_of_some h]

/-- A step that runs no instruction leaves the keys and raises no timer; any other is the end of an execution. -/
theorem stepUnder_keys_timers_cases {p : Config.Params} {s t : State} (h : stepUnder p s = .next t) :
    (t.keys = s.keys ∧ t.DT.toNat ≤ s.DT.toNat ∧ t.ST.toNat ≤ s.ST.toNat) ∨
    ∃ i u, decode s.fetch = .ok i ∧ execUnder p i s = .next u ∧ t = conclude p .ok u := by
  rcases stepUnder_cases p s with ⟨r, -, hs⟩ | ⟨-, -, hs⟩ | ⟨-, -, e, -, hs⟩ |
    ⟨-, -, i, u, hd, hu, hs⟩ <;> cases h.symm.trans hs
  · exact .inl (by simp)
  · exact .inl (conclude_keys_timers p _ (s.raise _ _))
  · rcases unknownOpcode_cases p s.fetch s with hu | hu <;> rw [hu]
    · exact .inl (conclude_keys_timers p _ s.advance)
    · exact .inl (conclude_keys_timers p _ (s.raise _ _))
  · exact .inr ⟨i, u, hd, hu, rfl⟩

/-- Settles O54: execution leaves the keys and writes a timer only by its load, and the tick phase lowers. -/
theorem stepsNeverRaiseATimerOrTouchKeys : Obligations.StepsNeverRaiseATimerOrTouchKeys := by
  intro p s t h
  rcases stepUnder_keys_timers_cases h with ⟨hkeys, hDT, hST⟩ | ⟨i, u, hd, hu, rfl⟩
  · exact ⟨hkeys, fun hlt => absurd hDT (by omega), fun hlt => absurd hST (by omega)⟩
  · obtain ⟨hkeys, hDT, hST⟩ := conclude_keys_timers p .ok u
    obtain ⟨-, -, -, hwriteDT, hwriteST, -, -, hukeys, -⟩ := elementsHaveOnlyTheirWriters p i s u hu
    refine ⟨hkeys.trans hukeys, fun hlt => ?_, fun hlt => ?_⟩
    · obtain ⟨x, rfl⟩ := hwriteDT (by rintro heq; rw [heq] at hDT; omega)
      exact ⟨x, hd⟩
    · obtain ⟨x, rfl⟩ := hwriteST (by rintro heq; rw [heq] at hST; omega)
      exact ⟨x, hd⟩

/-! ## The invariant (R26, R151, R262) -/

/-- On a running core the invariant is about memory, `pc` and the stack. -/
theorem inv_of_running {s : State} (hf : s.fault = none) (hmem : s.mem.wf = true) (hpc : s.pc.toNat ≤ 0x10FE)
    (hstack : ∀ j : Fin 16, j.val < s.sp.val → 2 ≤ s.stack[j].toNat ∧ s.stack[j].toNat ≤ 0x1000) : Inv s :=
  ⟨hmem, hpc, hstack, by simp [hf], by simp [hf]⟩

/-- Settles O56: memory lists nothing and the stack is empty. -/
theorem resetMeetsTheInvariant : Obligations.ResetMeetsTheInvariant :=
  inv_of_running rfl Memory.wf_nil (by decide) nofun

theorem inv_raise {s : State} {cause : FaultCause} {word : Option Word} (hs : Inv s)
    (hholds : FaultRecord.holdsIn { cause := cause, pc := s.pc, word := word } s) : Inv (s.raise cause word) :=
  ⟨hs.mem_wf, hs.pc_le, hs.stack_le, fun _ hr => by cases hr; rfl, fun _ hr => by cases hr; exact hholds⟩

theorem Completes.inv {p : Config.Params} {s t : State} {i : Instr} (h : Completes p s i t) (hs : Inv s)
    (hf : s.fault = none) (hpc : s.pc.toNat ≤ 0xFFE) : Inv t :=
  inv_of_running (h.fault_eq.trans hf) (h.mem_wf hs.mem_wf) (h.pc_le hs hpc) (h.stack_le hs hpc)

/-- An unknown word is skipped as an instruction that writes nothing would be, or latched as a fault. -/
theorem inv_unknownOpcode {p : Config.Params} {s : State} (w : Word) (hs : Inv s) (hf : s.fault = none)
    (hpc : s.pc.toNat ≤ 0xFFE) : Inv (unknownOpcode p w s) := by
  rcases unknownOpcode_cases p w s with hu | hu <;> rw [hu]
  · exact inv_of_running hf hs.mem_wf (by rw [State.advance_pc]; bv_omega) hs.stack_le
  · exact inv_raise hs trivial

/-- The timers, the keys, the screen and the registers are not in the invariant, nor is what passes to the host. -/
theorem inv_returning {s : State} (st : StepStatus) (hs : Inv s) : Inv (s.returning st) :=
  ⟨hs.mem_wf, hs.pc_le, hs.stack_le, hs.fault_pc, hs.fault_holds⟩

theorem inv_conclude {p : Config.Params} {t : State} (st : StepStatus) (ht : Inv t) : Inv (conclude p st t) := by
  cases h : t.fault with
  | none =>
    rw [conclude_of_none h]
    exact ⟨ht.mem_wf, ht.pc_le, ht.stack_le, ht.fault_pc, ht.fault_holds⟩
  | some r =>
    rw [conclude_of_some h]
    exact inv_returning _ ht

/-- Settles O57: each way a step can go ends in `conclude` after a raise or a completion, or does nothing. -/
theorem stepKeepsTheInvariant : Obligations.StepKeepsTheInvariant := by
  intro p s t hs h
  rcases stepUnder_cases p s with ⟨r, -, hstep⟩ | ⟨-, hpc, hstep⟩ | ⟨hf, hpc, e, -, hstep⟩ |
    ⟨hf, hpc, i, u, -, hu, hstep⟩ <;> cases h.symm.trans hstep
  · exact inv_returning _ hs
  · exact inv_conclude _ (inv_raise hs ⟨hpc, rfl⟩)
  · exact inv_conclude _ (inv_unknownOpcode _ hs hf hpc)
  · refine inv_conclude _ ?_
    rcases execUnder_completes_or_raises hu with hdone | ⟨cause, rfl, hholds⟩
    · exact hdone.inv hs hf hpc
    · exact inv_raise hs hholds

/-! ## The host's transactions keep it (R137 to R145) -/

theorem inv_with_inputs {s : State} (inputs : List StepInput) (inputNo : Nat) (hs : Inv s) :
    Inv { s with inputs := inputs, inputNo := inputNo } :=
  ⟨hs.mem_wf, hs.pc_le, hs.stack_le, hs.fault_pc, hs.fault_holds⟩

/-- Under `reset_regs = zero` the host's reset is `State.reset`, the host's own inputs apart (log 12). -/
theorem hostReset_of_zero {p : Config.Params} (hp : p.resetRegs = .zero) (s : State) :
    hostReset p s = { State.reset with inputs := s.inputs, inputNo := s.inputNo + 1 } := by
  rw [hostReset, resetDraw, hp]
  rfl

theorem inv_hostReset {p : Config.Params} (hp : p.resetRegs = .zero) (s : State) : Inv (hostReset p s) := by
  rw [hostReset_of_zero hp]
  exact inv_with_inputs _ _ resetMeetsTheInvariant

/-- An image that is loaded fits between 0x200 and the end of memory. -/
theorem inv_hostLoad {s : State} (b : List Byte) (hs : Inv s) : Inv (hostLoad b s).1 := by
  by_cases hb : Config.progCapacity < b.length
  · rw [hostLoad_of_too_large hb]
    exact hs
  · rw [Nat.not_lt] at hb
    rw [hostLoad_of_fits hb]
    exact ⟨Memory.wf_writeSeq b hs.mem_wf (Nat.add_le_add_left hb Config.progStart), hs.pc_le, hs.stack_le,
      hs.fault_pc, hs.fault_holds⟩

theorem hostDo_step_inversion {p : Config.Params} {i : StepInput} {s t : State} {reply : HostReply}
    (h : hostDo p (.step i) s = .next (t, reply)) : stepUnder p { s with inputs := i :: s.inputs } = .next t := by
  simp only [hostDo, hostStep] at h
  split at h <;> cases h
  assumption

/-- Settles O58: a reset starts from the state of O56, a step keeps the invariant by O57, and the others change at
most memory, by a load that fits, or the keys. -/
theorem hostTransactionsKeepTheInvariant : Obligations.HostTransactionsKeepTheInvariant := by
  intro p op s t reply hp hs h
  cases op with
  | reset => cases h; exact inv_hostReset hp s
  | load b => cases h; exact inv_hostLoad b hs
  | setKeys k => cases h; exact ⟨hs.mem_wf, hs.pc_le, hs.stack_le, hs.fault_pc, hs.fault_holds⟩
  | step i => exact stepKeepsTheInvariant p _ t (inv_with_inputs _ _ hs) (hostDo_step_inversion h)
  | readPixels | readDelayTimer | readSoundTimer => cases h; exact hs

end Sys2Proof.Machine

/-! The rest of the cycle (40_dispatch.md, 45_timers_input.md, 70_reset_and_hazards.md): the step that runs a decoded
instruction, the bound on its ticks, the values after reset, and the placing of a word. -/

namespace Sys2Proof.Machine

/-! ## The step that runs an instruction (R120, R130) -/

/-- Settles O9: at the defaults of R10 the four instructions that read a parameter are `exec`'s too. -/
theorem defaultParametersGiveExec : Obligations.DefaultParametersGiveExec := by
  intro i s
  cases i <;> rfl

theorem step_of_exec {s t : State} {i : Instr} (hf : s.fault = none) (hpc : s.pc.toNat ≤ 0xFFE)
    (hd : decode s.fetch = .ok i) (ht : exec i s = .next t) : step s = .next (conclude Config.params .ok t) := by
  rw [← defaultParametersGiveExec] at ht
  simp only [step, stepUnder, hf, if_neg (Nat.not_lt.mpr hpc), runWord, hd, ht]

theorem step_of_exec_no_fault {s t : State} {i : Instr} (hf : s.fault = none) (hpc : s.pc.toNat ≤ 0xFFE)
    (hd : decode s.fetch = .ok i) (ht : exec i s = .next t) (htf : t.fault = none) :
    step s = .next ((t.tick (t.ticks Config.params)).returning .ok) := by
  rw [step_of_exec hf hpc hd ht, conclude_of_none htf]

/-- Settles O8: `conclude` ticks where `exec` left the latch clear, and only returns where it did not. -/
theorem stepRunsTheDecodedInstruction : Obligations.StepRunsTheDecodedInstruction := by
  intro s t i hf hpc hd ht
  refine ⟨fun htf => step_of_exec_no_fault hf hpc hd ht htf, fun r htf => ?_⟩
  rw [step_of_exec hf hpc hd ht, conclude_of_some htf]
  rfl

/-- Settles O19: none of the three touches the step's inputs, so the ticks are those the host named at `s`. -/
theorem ticksComeAfterExecution : Obligations.TicksComeAfterExecution := by
  intro s x hf hpc
  exact ⟨fun hd => ⟨_, step_of_exec_no_fault hf hpc hd rfl hf, by simp⟩,
    fun hd => ⟨_, step_of_exec_no_fault hf hpc hd rfl hf, by simp⟩,
    fun hd => ⟨_, step_of_exec_no_fault hf hpc hd rfl hf, by simp⟩⟩

/-! ## The bound on the ticks (R121, R249) -/

theorem exists_ticks_eq_boundTicks (p : Config.Params) (s : State) : ∃ k, s.ticks p = boundTicks p k := by
  rw [State.ticks]
  split <;> exact ⟨_, rfl⟩

/-- Settles O20: the ticks are a minimum with the bound, which a count within it passes unchanged. -/
theorem ticksStayWithinTheBound : Obligations.TicksStayWithinTheBound := by
  intro p s m hm
  constructor
  · obtain ⟨k, hk⟩ := exists_ticks_eq_boundTicks p s
    rw [hk, boundTicks_some hm]
    exact min_le_right k m
  · intro k hk b rest
    exact (boundTicks_some hm k).trans (min_eq_left hk)

/-! ## The values after reset (R39) -/

theorem length_font : Config.font.length = 0x50 := rfl

/-- Memory that lists nothing is the font, then zeros up to the end of the address space (R39, R66). -/
theorem Memory.read_nil (a : Nat) :
    Memory.read [] a = if a < 0x50 then Config.font[a]? else if a < 0x1000 then some 0 else none := by
  have hlen := length_font
  change (if a < 0x1000 then some (Config.font.getD a 0) else none) = _
  rw [List.getD_eq_getElem?_getD]
  by_cases hfont : a < 0x50
  · rw [if_pos hfont, if_pos (by omega), List.getElem?_eq_getElem (by omega), Option.getD_some]
  · rw [if_neg hfont, List.getElem?_eq_none (by omega), Option.getD_none]

/-- Settles O21: memory by `Memory.read_nil`, the elements of D17 by the zero draw. -/
theorem resetGivesTheTablesValues : Obligations.ResetGivesTheTablesValues := by
  refine ⟨fun p s => ⟨Memory.read_nil, rfl, rfl, fun hp => ?_⟩, ?_⟩
  · rw [hostReset_of_zero hp]
    simp [SameCore]
  · simp [State.reset, State.resetFrom, Config.ResetDraw.zero, State.reg, pixel]

/-! ## Placing a word (R62, log 10) -/

theorem withFetchWord_toNat (s : State) (w : Word) : s.withFetchWord 16 w.toNat = s.readyToFetch.placeWord w := by
  rw [State.withFetchWord, Nat.mod_eq_of_lt w.isLt, BitVec.ofNat_toNat, BitVec.setWidth_eq]

theorem fetch_placeWord (s : State) (w : Word) : (s.placeWord w).fetch = w := by
  have hhi : (s.placeWord w).mem.byteAt s.pc.toNat = hiByte w := Memory.byteAt_writeSeq_inside (k := 0) (by simp)
  have hlo : (s.placeWord w).mem.byteAt (s.pc.toNat + 1) = loByte w :=
    Memory.byteAt_writeSeq_inside (k := 1) (by simp)
  change joinBytes ((s.placeWord w).mem.byteAt s.pc.toNat) ((s.placeWord w).mem.byteAt (s.pc.toNat + 1)) = w
  rw [hhi, hlo, joinBytes_hiByte_loByte]

theorem readyToFetch_pc_of_fetchable {s : State} (h : s.pc.toNat ≤ 0xFFE) : s.readyToFetch.pc = s.pc := if_pos h

theorem readyToFetch_pc_le (s : State) : s.readyToFetch.pc.toNat ≤ 0xFFE := by
  by_cases h : s.pc.toNat ≤ 0xFFE
  · rwa [readyToFetch_pc_of_fetchable h]
  · rw [show s.readyToFetch.pc = 0x200 from if_neg h]
    decide

/-- Settles O25: the two bytes written at the fetchable `pc` are the ones read there, and no others change. -/
theorem placedWordIsFetched : Obligations.PlacedWordIsFetched := by
  intro s w
  rw [withFetchWord_toNat]
  exact ⟨fetch_placeWord _ w, rfl, readyToFetch_pc_le s, memSameOutside_of_writeSeq rfl rfl,
    fun _ hpc => readyToFetch_pc_of_fetchable hpc⟩

end Sys2Proof.Machine

/-! Derived rules: what two instructions one after the other do (R161, R184, R207, R226, R296), and the shifts and
block moves under every parameter (R180, R182, R205, R206). -/

namespace Sys2Proof.Machine

/-! ## Call and return (R161) -/

/-- Settles O28: the return pops the entry the call pushed, which is still there. -/
theorem callThenReturnRestoresPcAndSp : Obligations.CallThenReturnRestoresPcAndSp := by
  intro s t u nnn hcall htf husp hustack
  by_cases hroom : s.sp.val < 16
  · obtain ⟨t', ht', hentry, htsp, -⟩ := (callPushesAndJumpsOrOverflows s nnn).1 hroom
    cases hcall.symm.trans ht'
    have htop : u.sp.val = s.sp.val + 1 := by rw [husp, htsp]
    obtain ⟨v, hv, hvpc, hvsp, -, -, -, -, -, -, -, hvf, -⟩ := (retPopsAndJumpsOrUnderflows u).1 (by omega)
    refine ⟨v, hv, ?_, Fin.ext (by omega), hvf⟩
    have hkept : u.stack[s.sp.val] = t.stack[s.sp.val] := hustack ⟨s.sp.val, hroom⟩ (by simp [htsp])
    simp only [htop, Nat.add_sub_cancel] at hvpc
    rw [hvpc, hkept, hentry]
  · obtain ⟨t', ht', -, hfault, -⟩ := (callPushesAndJumpsOrOverflows s nnn).2 (by omega)
    cases hcall.symm.trans ht'
    cases htf.symm.trans hfault

/-! ## Addition and subtraction (R184) -/

/-- Settles O36: the sum is in `Vx`, and subtracting `Vy` from it cancels. -/
theorem addThenSubRestoresVx : Obligations.AddThenSubRestoresVx := by
  intro s t x y hx _ hadd hy
  have hsum : t.reg x = s.reg x + s.reg y := by
    rw [← Host.Outcome.next.inj hadd, State.advance_reg, State.reg_setResultFlag_dest s hx]
  refine ⟨_, rfl, ?_⟩
  rw [State.advance_reg, State.reg_setResultFlag_dest t hx, hsum, hy, BitVec.add_sub_cancel]

/-! ## Shifts (R177, R180, R182) -/

theorem toNat_flagByte_lowBitOf (v : Byte) : (flagByte (lowBitOf v)).toNat = v.toNat % 2 := by
  simp only [toNat_flagByte, lowBitOf, beq_iff_eq]
  split <;> omega

theorem toNat_flagByte_highBitOf (v : Byte) : (flagByte (highBitOf v)).toNat = v.toNat / 128 := by
  have := v.isLt
  simp only [toNat_flagByte, highBitOf, beq_iff_eq]
  split <;> omega

/-- A right shift of `v` into `Vx`, whichever register `v` is from. -/
theorem setResultFlag_shr_spec {s t : State} {x : Reg} {v : Byte}
    (ht : t = (s.setResultFlag x (v >>> 1) (lowBitOf v)).advance) :
    WritesOnly s t [x, VF] ∧ (t.reg VF).toNat = v.toNat % 2 ∧ (x ≠ VF → (t.reg x).toNat = v.toNat / 2) := by
  subst ht
  refine ⟨writesOnly_setResultFlag_advance s x _ _, ?_, fun hx => ?_⟩
  · rw [State.advance_reg, State.reg_setResultFlag_VF, toNat_flagByte_lowBitOf]
  · rw [State.advance_reg, State.reg_setResultFlag_dest s hx, BitVec.toNat_ushiftRight, Nat.shiftRight_one]

/-- A left shift of `v` into `Vx`, whichever register `v` is from. -/
theorem setResultFlag_shl_spec {s t : State} {x : Reg} {v : Byte}
    (ht : t = (s.setResultFlag x (v <<< 1) (highBitOf v)).advance) :
    WritesOnly s t [x, VF] ∧ (t.reg VF).toNat = v.toNat / 128 ∧
    (x ≠ VF → (t.reg x).toNat = v.toNat * 2 % 256) := by
  subst ht
  refine ⟨writesOnly_setResultFlag_advance s x _ _, ?_, fun hx => ?_⟩
  · rw [State.advance_reg, State.reg_setResultFlag_VF, toNat_flagByte_highBitOf]
  · rw [State.advance_reg, State.reg_setResultFlag_dest s hx, BitVec.toNat_shiftLeft, Nat.shiftLeft_eq]

/-- Settles O35: the default source of a shift is `Vx`. -/
theorem shiftsMoveVxAndFlagTheLostBit : Obligations.ShiftsMoveVxAndFlagTheLostBit := fun s x _ =>
  ⟨⟨_, rfl, setResultFlag_shr_spec (v := s.reg x) rfl⟩, ⟨_, rfl, setResultFlag_shl_spec (v := s.reg x) rfl⟩⟩

theorem shiftOperand_of_vy {p : Config.Params} (hp : p.shiftSource = .vy) (x y : Reg) (s : State) :
    shiftOperand p x y s = s.reg y := by
  rw [shiftOperand, hp]

/-! ## Dumping and loading a block of registers (R205, R206, R207) -/

theorem blockCount_le (p : Config.Params) (x : Reg) : blockCount p x ≤ 16 := by
  rw [blockCount]
  split <;> omega

theorem blockCount_of_inclusive {p : Config.Params} (hp : p.dumpInclusive = true) (x : Reg) :
    blockCount p x = x.val + 1 := if_pos hp

theorem length_take_regs (s : State) {n : Nat} (hn : n ≤ 16) : (s.V.toList.take n).length = n := by
  simpa using hn

/-- A dump whose block fits stores it and nothing else. -/
theorem execUnder_ldMemV_of_fits {p : Config.Params} {s : State} {x : Reg}
    (hfit : blockCount p x = 0 ∨ s.I.toNat + blockCount p x ≤ 0x1000) :
    ∃ t, execUnder p (.ldMemV x) s = .next t ∧
      (∀ i : Reg, i.val < blockCount p x → t.mem.read (s.I.toNat + i.val) = some (s.reg i)) ∧
      MemSameOutside s t s.I.toNat (blockCount p x) ∧ t.I = s.I ∧ t.pc = s.pc + 2 ∧ RegsSameBut s t [] ∧
      StackSame s t ∧ TimersSame s t ∧ ScreenSame s t ∧ HostSideSame s t := by
  have hlen := length_take_regs s (blockCount_le p x)
  rcases storeBlock_cases s.mem s.I.toNat (s.V.toList.take (blockCount p x)) with ⟨hstore, -⟩ | ⟨-, hpos, hpast⟩
  · refine ⟨_, execUnder_ldMemV_of_storeBlock_ok hstore, fun i hi => ?_, memSameOutside_of_writeSeq hlen rfl,
      setMem_advance_frame s _⟩
    have hread := Memory.read_writeSeq_inside (m := s.mem) (a := s.I.toNat) (hlen.symm ▸ hi)
      (by rw [hlen]; exact hfit.resolve_left (by omega))
    simpa [State.reg] using hread
  · rw [hlen] at hpos hpast
    exact absurd (hfit.resolve_left (by omega)) (Nat.not_le.mpr hpast)

/-- A load whose block fits fills the block's registers and nothing else. -/
theorem execUnder_ldVMem_of_fits {p : Config.Params} {s : State} {x : Reg}
    (hfit : blockCount p x = 0 ∨ s.I.toNat + blockCount p x ≤ 0x1000) :
    ∃ t, execUnder p (.ldVMem x) s = .next t ∧
      (∀ i : Reg, i.val < blockCount p x → s.mem.read (s.I.toNat + i.val) = some (t.reg i)) ∧
      (∀ i : Reg, blockCount p x ≤ i.val → t.reg i = s.reg i) ∧ t.pc = s.pc + 2 ∧ RestSame s t := by
  have hlen := Memory.length_readSeq s.mem s.I.toNat (blockCount p x)
  rcases loadBlock_cases s.mem s.I.toNat (blockCount p x) with ⟨hload, -⟩ | ⟨-, hpos, hpast⟩
  · refine ⟨_, execUnder_ldVMem_of_loadBlock_ok hload, fun i hi => ?_, fun i hi => ?_, rfl, ?_⟩
    · have haddr : s.I.toNat + i.val < 0x1000 := by omega
      rw [Memory.read_eq haddr, State.advance_reg, reg_setRegs, List.getElem?_eq_getElem (by omega),
        Memory.getElem_readSeq, Option.getD_some]
    · rw [State.advance_reg, reg_setRegs, List.getElem?_eq_none (by omega), Option.getD_none]
    · simp [RestSame, MemSame, StackSame, TimersSame, ScreenSame, HostSideSame]
  · exact absurd (hfit.resolve_left (by omega)) (Nat.not_le.mpr hpast)

/-- The smaller block of this hardware, as the two lemmas above take it. -/
theorem blockCount_params_fits {s : State} {x : Reg} (h : x = 0 ∨ s.I.toNat + x.val ≤ 0x1000) :
    blockCount Config.params x = 0 ∨ s.I.toNat + blockCount Config.params x ≤ 0x1000 :=
  h.imp_left (congrArg Fin.val)

/-- Settles O40: the default block is the `x` registers below `Vx`. -/
theorem dumpStoresRegistersBelowVx : Obligations.DumpStoresRegistersBelowVx := fun _ _ h =>
  execUnder_ldMemV_of_fits (blockCount_params_fits h)

/-- Settles O41: the default block is the `x` registers below `Vx`. -/
theorem loadFillsRegistersBelowVx : Obligations.LoadFillsRegistersBelowVx := fun _ _ h =>
  execUnder_ldVMem_of_fits (blockCount_params_fits h)

/-- Settles O42: the range check refuses the whole block, with its lowest bad address. -/
theorem blockPastMemoryFaultsPrecisely : Obligations.BlockPastMemoryFaultsPrecisely := by
  intro p s x hpos hpast
  have hlen := length_take_regs s (blockCount_le p x)
  have hsize : Config.memSize = 0x1000 := rfl
  constructor
  · rcases storeBlock_cases s.mem s.I.toNat (s.V.toList.take (blockCount p x)) with ⟨-, hfit⟩ | ⟨hstore, -⟩
    · exact absurd hfit (by omega)
    · exact ⟨_, execUnder_ldMemV_of_storeBlock_error hstore, faultedAt_raiseIn s _ _⟩
  · rcases loadBlock_cases s.mem s.I.toNat (blockCount p x) with ⟨-, hfit⟩ | ⟨hload, -⟩
    · exact absurd hfit (by omega)
    · exact ⟨_, execUnder_ldVMem_of_loadBlock_error hload, faultedAt_raiseIn s _ _⟩

/-- Settles O43: the source of a shift is `Vy`, and the block ends with `Vx`. -/
theorem otherParametersShiftVyAndReachVx : Obligations.OtherParametersShiftVyAndReachVx := by
  intro p s x y
  refine ⟨fun hp => ?_, fun hp hfit => ?_⟩
  · have hsrc := shiftOperand_of_vy hp x y s
    exact ⟨⟨_, rfl, hsrc ▸ setResultFlag_shr_spec rfl⟩, ⟨_, rfl, hsrc ▸ setResultFlag_shl_spec rfl⟩⟩
  · have hcount := blockCount_of_inclusive hp x
    have hdump := execUnder_ldMemV_of_fits (p := p) (s := s) (x := x) (.inr (by omega))
    have hload := execUnder_ldVMem_of_fits (p := p) (s := s) (x := x) (.inr (by omega))
    simp only [hcount, Nat.lt_succ_iff, Nat.succ_le_iff] at hdump hload
    exact ⟨hdump, hload⟩

/-- A dump that raised no fault had room for its block. -/
theorem block_fits_of_dump_no_fault {p : Config.Params} {s t : State} {x : Reg}
    (h : execUnder p (.ldMemV x) s = .next t) (htf : t.fault = none) :
    blockCount p x = 0 ∨ s.I.toNat + blockCount p x ≤ 0x1000 := by
  by_contra hfit
  obtain ⟨⟨t', ht', -, hfault, -⟩, -⟩ := blockPastMemoryFaultsPrecisely p s x (by omega) (by omega)
  cases h.symm.trans ht'
  cases htf.symm.trans hfault

/-- Settles O44: register, dumped byte, byte before the load, register again. -/
theorem dumpThenLoadReproducesRegisters : Obligations.DumpThenLoadReproducesRegisters := by
  intro p s t u v x hdump htf huI hkept hload _ i hi
  have hfit := block_fits_of_dump_no_fault hdump htf
  obtain ⟨t', ht', hstored, -⟩ := execUnder_ldMemV_of_fits hfit
  obtain ⟨v', hv', hloaded, -⟩ := execUnder_ldVMem_of_fits (s := u) (huI ▸ hfit)
  cases hdump.symm.trans ht'
  cases hload.symm.trans hv'
  rw [huI] at hloaded
  apply Option.some.inj
  calc some (v.reg i) = u.mem.read (s.I.toNat + i.val) := (hloaded i hi).symm
    _ = t.mem.read (s.I.toNat + i.val) := hkept i.val hi
    _ = some (s.reg i) := hstored i hi

/-! ## A store and the next fetch (R75, R296) -/

/-- Settles O45: the fetch reads the first two of the three digits the store has placed. -/
theorem storesAreSeenByTheNextFetch : Obligations.StoresAreSeenByTheNextFetch := by
  intro s x hI hfit
  have hv := (s.reg x).isLt
  obtain ⟨t, ht, hhundreds, htens, -, -, -, htpc, -⟩ := (bcdStoresThreeDigitsOrFaults s x).1 hfit
  have hpc : t.pc.toNat = s.I.toNat := by rw [htpc]; bv_omega
  obtain ⟨hi, lo, hhi, hlo, hfetch⟩ := fetchIsBigEndian t (by omega)
  rw [hpc] at hhi hlo
  cases hhi.symm.trans hhundreds
  cases hlo.symm.trans htens
  refine ⟨t, ht, hpc, ?_⟩
  rw [hfetch, BitVec.toNat_ofNat, BitVec.toNat_ofNat]
  omega

/-! ## Drawing twice (R226) -/

/-- A draw that raised no fault had room for its rows. -/
theorem rows_fit_of_drw_no_fault {s t : State} {x y : Reg} {n : Fin 16} (h : exec (.drw x y n) s = .next t)
    (htf : t.fault = none) : n = 0 ∨ s.I.toNat + n.val ≤ 0x1000 := by
  by_contra hfit
  obtain ⟨t', ht', -, hfault, -⟩ := (drawXorsTheCoveredPixelsOrFaults s x y n).2 (by omega) (by omega)
  cases h.symm.trans ht'
  cases htf.symm.trans hfault

/-- The covered pixels depend on `I` and the sprite's bytes only. -/
theorem covers_congr {s u : State} {n : Nat} (x y : Nat) (px : Fin 64) (py : Fin 32) (hI : u.I = s.I)
    (hbytes : ∀ r < n, u.mem.byteAt (s.I.toNat + r) = s.mem.byteAt (s.I.toNat + r)) :
    covers u x y n px py = covers s x y n px py := by
  rw [Bool.eq_iff_iff, covers_iff, covers_iff, State.dataAddr, State.dataAddr, hI]
  refine exists_congr fun r => and_congr_right fun hr => ?_
  rw [hbytes r hr]

/-- Settles O48: both draws toggle the same pixels, and a covered pixel is set after the first exactly when it was
clear before. -/
theorem drawingTwiceUndoesTheDraw : Obligations.DrawingTwiceUndoesTheDraw := by
  intro s t u v x y n hfirst htf hsecond hvf hfb hx hy hI hbytes
  have hfit := rows_fit_of_drw_no_fault hfirst htf
  have hcovers (px py) : covers u (u.reg x).toNat (u.reg y).toNat n.val px py =
      covers s (s.reg x).toNat (s.reg y).toNat n.val px py := by
    rw [hx, hy]
    refine covers_congr _ _ px py hI fun r hr => Memory.byteAt_of_read ?_ (hbytes r hr)
    have haddr : s.I.toNat + r < 0x1000 := by omega
    exact haddr
  obtain ⟨t', ht', hpixt, -⟩ := (drawXorsTheCoveredPixelsOrFaults s x y n).1 hfit
  obtain ⟨v', hv', hpixv, -, hflag, -⟩ := (drawXorsTheCoveredPixelsOrFaults u x y n).1 (by rwa [hI])
  cases hfirst.symm.trans ht'
  cases hsecond.symm.trans hv'
  simp only [hcovers, hfb, hpixt] at hpixv hflag
  refine ⟨fun px py => ?_, hflag.trans ?_⟩
  · rw [hpixv, Bool.xor_assoc, Bool.xor_self, Bool.xor_false]
  · refine exists_congr fun px => exists_congr fun py => and_congr_right fun hc => ?_
    rw [hc, Bool.xor_true, Bool.not_eq_true']

end Sys2Proof.Machine
